-- ==== Sys2Proof/Word.lean ====
section
/-! DEFINITION. The word types of the block (00_scope.md R10). -/

namespace Sys2Proof

/-- A byte is 8 bits (00_scope.md R10). -/
abbrev Byte := BitVec 8

/-- A word is 32 bits (00_scope.md R10): every register and every bus transfer. -/
abbrev Word := BitVec 32

/-- The running value of the CRC generator (10_state.md R20, R28). -/
abbrev Word16 := BitVec 16

/-- The 7 bits of a LEN or DKLEN field (30_encoding.md R81). -/
abbrev Count := BitVec 7

/-- An offset in the 256-byte register window: bits [7:0] of an access's address (20_memory.md R51). -/
abbrev Offset := BitVec 8

end Sys2Proof
end

