-- ==== Sys2Proof/Config.lean ====
section
/-! DEFINITION. The implementation parameters of 00_scope.md R9.
The closed ones have the spec's value. Of the four OPEN ones, `BASE` and `IRQ_ROUTE` are constants without a body,
`LATENCY` is the scheduling that `State.agenda` holds (log 1), and `BUS_PROTOCOL` is the choice of the transaction
level (log 13). -/

namespace Sys2Proof.Config

/-- `WINDOW`: the window's size in bytes (00_scope.md R9). -/
abbrev window : Nat := 256

/-- `INBUF_BYTES` (00_scope.md R9). -/
abbrev inbufBytes : Nat := 64

/-- `OUT_BYTES` (00_scope.md R9). -/
abbrev outBytes : Nat := 80

/-- `MAX_LEN`: the largest LEN operand (00_scope.md R9). -/
abbrev maxLen : Nat := 64

/-- `MAX_DKLEN`: the largest PBKDF2 output length (00_scope.md R9). -/
abbrev maxDklen : Nat := 80

/-- `MAXLEN_BYTES`: the most bytes one hash context may absorb (00_scope.md R9, 40_sha1.md R118). -/
abbrev maxlenBytes : Nat := 2 ^ 61 - 1

/-- `DIGEST_BYTES` (00_scope.md R9). -/
abbrev digestBytes : Nat := 20

/-- `SHA_BLOCK`: the bytes of one SHA-1 block (00_scope.md R9). -/
abbrev shaBlock : Nat := 64

/-- `PBKDF2_BLOCK` (00_scope.md R9). -/
abbrev pbkdf2Block : Nat := 20

/-- `CRC_POLY`, reflected (00_scope.md R9, 43_crc16.md R170). -/
abbrev crcPoly : Word16 := 0x8408

/-- `CRC_SEED` (00_scope.md R9, 43_crc16.md R171). -/
abbrev crcSeed : Word16 := 0xFFFF

/-- `BASE`: the platform's base address of the window, OPEN (00_scope.md R9, 20_memory.md R51). No rule of the block
reads it (log 13). -/
opaque base : Nat

/-- `IRQ_ROUTE`: the line of the platform's interrupt controller that `irq` drives, OPEN (60_exceptions.md R209).
No rule of the block reads it (log 13). -/
opaque irqRoute : Nat

end Sys2Proof.Config
end

