-- ==== Sys2Proof/Syntax.lean ====
section
/-! DEFINITION. The commands of the block (30_encoding.md R85), the registers of its window (10_state.md R40), and the
statements of a host program (30_encoding.md R88-R90). -/

namespace Sys2Proof

/-- The 18 defined opcodes by their mnemonics (30_encoding.md R85). -/
inductive Opcode where
  | sha1Init | sha1Update | sha1Final | sha1Oneshot
  | hmacKeyBegin | hmacKeyAbsorb | hmacKeyAbsorbOut | hmacKeyEnd
  | hmacInit | hmacUpdate | hmacFinal | hmacOneshot | keyClear
  | pbkdf2
  | crcInit | crcUpdate | crcOneshot
  | zeroize
deriving DecidableEq, Repr

/-- A command of the block, its "instruction": one constructor per row of the opcode map (30_encoding.md R85).
`len` is the LEN field and `dklen` the DKLEN field, each with every value its 7 bits hold: a value outside the legal
range makes the command fail when it completes (R82, R83). Every other operand is implicit (R84). -/
inductive Instr where
  /-- 40_sha1.md R120 -/
  | sha1Init
  /-- 40_sha1.md R121 -/
  | sha1Update (len : Count)
  /-- 40_sha1.md R122 -/
  | sha1Final
  /-- 40_sha1.md R123 -/
  | sha1Oneshot (len : Count)
  /-- 41_hmac.md R146 -/
  | hmacKeyBegin
  /-- 41_hmac.md R147 -/
  | hmacKeyAbsorb (len : Count)
  /-- 41_hmac.md R148 -/
  | hmacKeyAbsorbOut (len : Count)
  /-- 41_hmac.md R149 -/
  | hmacKeyEnd
  /-- 41_hmac.md R150 -/
  | hmacInit
  /-- 41_hmac.md R151 -/
  | hmacUpdate (len : Count)
  /-- 41_hmac.md R152 -/
  | hmacFinal
  /-- 41_hmac.md R153 -/
  | hmacOneshot (len : Count)
  /-- 41_hmac.md R154 -/
  | keyClear
  /-- 42_pbkdf2.md R163 -/
  | pbkdf2 (len dklen : Count)
  /-- 43_crc16.md R173 -/
  | crcInit
  /-- 43_crc16.md R174 -/
  | crcUpdate (len : Count)
  /-- 43_crc16.md R175 -/
  | crcOneshot (len : Count)
  /-- 44_system.md R190 -/
  | zeroize
deriving DecidableEq, Repr

/-- The registers of the window (10_state.md R40). `reserved` is any other multiple of 4 (R40, 20_memory.md R59). -/
inductive Reg where
  | id | version | ctrl | status | cmd | iter | crc | msglenLo | msglenHi
  | inbuf (w : Fin 16)
  | out (w : Fin 20)
  | reserved
deriving DecidableEq, Repr

/-- One host bus access as the block sees it: the window offset and the width in bytes (00_scope.md R12
`MemRead(off, n)`, `MemWrite(off, n, v)`). -/
inductive Access where
  | read (off : Offset) (n : Nat)
  | write (off : Offset) (n : Nat) (v : Word)
deriving DecidableEq, Repr

/-- The statements of a host program: the basic ones (30_encoding.md R88), the command syntax (R89) and the
pseudo-instructions (R90). An absent `len` or `dklen` is `none`. -/
inductive HostStmt where
  /-- `wr REG, imm32` (R88) -/
  | wr (r : Reg) (v : Word)
  /-- `rd REG` (R88) -/
  | rd (r : Reg)
  /-- `cmd MNEMONIC [len=N] [dklen=D]` (R89) -/
  | cmd (op : Opcode) (len dklen : Option Nat)
  /-- `wait` (R90) -/
  | wait
  /-- `run MNEMONIC [len=N] [dklen=D]` (R90) -/
  | run (op : Opcode) (len dklen : Option Nat)
  /-- `ldin b0 b1 ... b(k-1)` (R90) -/
  | ldin (bytes : List Byte)
  /-- `setiter N` (R90) -/
  | setiter (n : Word)
  /-- `ack` (R90) -/
  | ack
  /-- `irq on` (R90) -/
  | irqOn
  /-- `irq off` (R90) -/
  | irqOff
  /-- `srst` (R90) -/
  | srst
  /-- `rdout k` (R90) -/
  | rdout (k : Nat)
deriving DecidableEq, Repr

end Sys2Proof
end

