-- ==== Sys2Proof/WellFormed.lean ====
section
/-! DEFINITION. Which commands are well formed: the range checks 3 and 4 of 30_encoding.md R86.
Checks 1 and 2 of that rule (the opcode and the reserved fields) are about words that stand for no `Instr`; the decoder
makes them. -/

namespace Sys2Proof

/-- LEN is legal: 0..64 (30_encoding.md R82, R86 check 3). -/
def lenOk (n : Count) : Bool := n.toNat ≤ Config.maxLen

/-- DKLEN is legal: 1..80 (30_encoding.md R83, R86 check 4). -/
def dklenOk (d : Count) : Bool := 1 ≤ d.toNat && d.toNat ≤ Config.maxDklen

/-- A well-formed command: its fields are in their legal ranges (30_encoding.md R86). -/
def Instr.wellFormed : Instr → Bool
  | .sha1Init => true
  | .sha1Update n => lenOk n
  | .sha1Final => true
  | .sha1Oneshot n => lenOk n
  | .hmacKeyBegin => true
  | .hmacKeyAbsorb n => lenOk n
  | .hmacKeyAbsorbOut n => lenOk n
  | .hmacKeyEnd => true
  | .hmacInit => true
  | .hmacUpdate n => lenOk n
  | .hmacFinal => true
  | .hmacOneshot n => lenOk n
  | .keyClear => true
  | .pbkdf2 n d => lenOk n && dklenOk d
  | .crcInit => true
  | .crcUpdate n => lenOk n
  | .crcOneshot n => lenOk n
  | .zeroize => true

end Sys2Proof
end

