-- ==== Sys2Proof/Decode.lean ====
section
/-! DEFINITION. The command word: its fields, the opcode map, the decoder and the encoder (30_encoding.md R80-R87). -/

namespace Sys2Proof

/-! ### Fields (R81) -/

/-- OPCODE, bits [7:0] (R81). -/
def opcodeField (w : Word) : Byte := w.extractLsb' 0 8

/-- LEN, bits [14:8] (R81). -/
def lenField (w : Word) : Count := w.extractLsb' 8 7

/-- RSV0, bit [15] (R81). -/
def rsv0Field (w : Word) : BitVec 1 := w.extractLsb' 15 1

/-- DKLEN, bits [22:16] (R81). -/
def dklenField (w : Word) : Count := w.extractLsb' 16 7

/-- RSV1, bits [31:23] (R81). -/
def rsv1Field (w : Word) : BitVec 9 := w.extractLsb' 23 9

/-! ### The opcode map (R85) -/

/-- The OPCODE value of a mnemonic (R85). -/
def Opcode.byte : Opcode → Byte
  | .sha1Init => 0x01
  | .sha1Update => 0x02
  | .sha1Final => 0x03
  | .sha1Oneshot => 0x04
  | .hmacKeyBegin => 0x10
  | .hmacKeyAbsorb => 0x11
  | .hmacKeyAbsorbOut => 0x12
  | .hmacKeyEnd => 0x13
  | .hmacInit => 0x14
  | .hmacUpdate => 0x15
  | .hmacFinal => 0x16
  | .hmacOneshot => 0x17
  | .keyClear => 0x18
  | .pbkdf2 => 0x20
  | .crcInit => 0x30
  | .crcUpdate => 0x31
  | .crcOneshot => 0x32
  | .zeroize => 0x3F

/-- The mnemonic of an OPCODE value; every value not listed is illegal (R85, R87). -/
def Opcode.ofByte (b : Byte) : Option Opcode :=
  match b.toNat with
  | 0x01 => some .sha1Init
  | 0x02 => some .sha1Update
  | 0x03 => some .sha1Final
  | 0x04 => some .sha1Oneshot
  | 0x10 => some .hmacKeyBegin
  | 0x11 => some .hmacKeyAbsorb
  | 0x12 => some .hmacKeyAbsorbOut
  | 0x13 => some .hmacKeyEnd
  | 0x14 => some .hmacInit
  | 0x15 => some .hmacUpdate
  | 0x16 => some .hmacFinal
  | 0x17 => some .hmacOneshot
  | 0x18 => some .keyClear
  | 0x20 => some .pbkdf2
  | 0x30 => some .crcInit
  | 0x31 => some .crcUpdate
  | 0x32 => some .crcOneshot
  | 0x3F => some .zeroize
  | _ => none

/-- The commands that use LEN (R85, column "uses"). -/
def Opcode.usesLen : Opcode → Bool
  | .sha1Update | .sha1Oneshot | .hmacKeyAbsorb | .hmacKeyAbsorbOut | .hmacUpdate | .hmacOneshot
  | .pbkdf2 | .crcUpdate | .crcOneshot => true
  | .sha1Init | .sha1Final | .hmacKeyBegin | .hmacKeyEnd | .hmacInit | .hmacFinal | .keyClear
  | .crcInit | .zeroize => false

/-- The command that uses DKLEN (R85, column "uses"). -/
def Opcode.usesDklen : Opcode → Bool
  | .pbkdf2 => true
  | .sha1Init | .sha1Update | .sha1Final | .sha1Oneshot | .hmacKeyBegin | .hmacKeyAbsorb
  | .hmacKeyAbsorbOut | .hmacKeyEnd | .hmacInit | .hmacUpdate | .hmacFinal | .hmacOneshot | .keyClear
  | .crcInit | .crcUpdate | .crcOneshot | .zeroize => false

/-- The command a mnemonic makes with its two count fields (R85). -/
def Opcode.instr (op : Opcode) (n d : Count) : Instr :=
  match op with
  | .sha1Init => .sha1Init
  | .sha1Update => .sha1Update n
  | .sha1Final => .sha1Final
  | .sha1Oneshot => .sha1Oneshot n
  | .hmacKeyBegin => .hmacKeyBegin
  | .hmacKeyAbsorb => .hmacKeyAbsorb n
  | .hmacKeyAbsorbOut => .hmacKeyAbsorbOut n
  | .hmacKeyEnd => .hmacKeyEnd
  | .hmacInit => .hmacInit
  | .hmacUpdate => .hmacUpdate n
  | .hmacFinal => .hmacFinal
  | .hmacOneshot => .hmacOneshot n
  | .keyClear => .keyClear
  | .pbkdf2 => .pbkdf2 n d
  | .crcInit => .crcInit
  | .crcUpdate => .crcUpdate n
  | .crcOneshot => .crcOneshot n
  | .zeroize => .zeroize

/-- The mnemonic of a command. -/
def Instr.opcode : Instr → Opcode
  | .sha1Init => .sha1Init
  | .sha1Update _ => .sha1Update
  | .sha1Final => .sha1Final
  | .sha1Oneshot _ => .sha1Oneshot
  | .hmacKeyBegin => .hmacKeyBegin
  | .hmacKeyAbsorb _ => .hmacKeyAbsorb
  | .hmacKeyAbsorbOut _ => .hmacKeyAbsorbOut
  | .hmacKeyEnd => .hmacKeyEnd
  | .hmacInit => .hmacInit
  | .hmacUpdate _ => .hmacUpdate
  | .hmacFinal => .hmacFinal
  | .hmacOneshot _ => .hmacOneshot
  | .keyClear => .keyClear
  | .pbkdf2 _ _ => .pbkdf2
  | .crcInit => .crcInit
  | .crcUpdate _ => .crcUpdate
  | .crcOneshot _ => .crcOneshot
  | .zeroize => .zeroize

/-- The LEN field of a command; 0 where it uses none (R86 check 2). -/
def Instr.len : Instr → Count
  | .sha1Init => 0
  | .sha1Update n => n
  | .sha1Final => 0
  | .sha1Oneshot n => n
  | .hmacKeyBegin => 0
  | .hmacKeyAbsorb n => n
  | .hmacKeyAbsorbOut n => n
  | .hmacKeyEnd => 0
  | .hmacInit => 0
  | .hmacUpdate n => n
  | .hmacFinal => 0
  | .hmacOneshot n => n
  | .keyClear => 0
  | .pbkdf2 n _ => n
  | .crcInit => 0
  | .crcUpdate n => n
  | .crcOneshot n => n
  | .zeroize => 0

/-- The DKLEN field of a command; 0 where it uses none (R86 check 2). -/
def Instr.dklen : Instr → Count
  | .sha1Init => 0
  | .sha1Update _ => 0
  | .sha1Final => 0
  | .sha1Oneshot _ => 0
  | .hmacKeyBegin => 0
  | .hmacKeyAbsorb _ => 0
  | .hmacKeyAbsorbOut _ => 0
  | .hmacKeyEnd => 0
  | .hmacInit => 0
  | .hmacUpdate _ => 0
  | .hmacFinal => 0
  | .hmacOneshot _ => 0
  | .keyClear => 0
  | .pbkdf2 _ d => d
  | .crcInit => 0
  | .crcUpdate _ => 0
  | .crcOneshot _ => 0
  | .zeroize => 0

/-! ### The decoder (R86) -/

/-- Why a word stands for no command: the first two decode checks of R86. -/
inductive DecodeError where
  /-- check 1: OPCODE is not one of the 18 values (R86, R87) -/
  | illegalOpcode
  /-- check 2: a reserved bit, or a field the opcode does not use, is not zero (R86). The opcode is kept, because two
  opcodes zero a buffer even then (60_exceptions.md R205). -/
  | reservedBits (op : Opcode)
deriving DecidableEq, Repr

/-- Decode check 2 of R86 fails: RSV0 or RSV1 is not zero, or an unused LEN or DKLEN is not zero. -/
def reservedSet (op : Opcode) (w : Word) : Bool :=
  rsv0Field w != 0 || rsv1Field w != 0
    || (!op.usesLen && lenField w != 0) || (!op.usesDklen && dklenField w != 0)

/-- The decoder, total on every word (R86 checks 1 and 2, in that order). The range checks 3 and 4 of R86 are made when
the command completes (log 7). -/
def decode (w : Word) : Except DecodeError Instr :=
  match Opcode.ofByte (opcodeField w) with
  | none => .error .illegalOpcode
  | some op => if reservedSet op w then .error (.reservedBits op) else .ok (op.instr (lenField w) (dklenField w))

/-! ### The encoder (R85, R89) -/

/-- The word `OPCODE | n << 8 | d << 16` (R85, R89). -/
def commandWord (op : Opcode) (n d : Count) : Word :=
  op.byte.setWidth 32 ||| n.setWidth 32 <<< 8 ||| d.setWidth 32 <<< 16

/-- The word of a command (R85, column "word with LEN=n, DKLEN=d"). -/
def encode (i : Instr) : Word := commandWord i.opcode i.len i.dklen

/-- One row of the opcode table: a word matches it when the bits under `mask` are those of `pattern` (R86). -/
structure TableRow where
  op : Opcode
  pattern : Word
  mask : Word
deriving DecidableEq, Repr

/-- The opcode table with the masks of R86: a command with no field matches exactly, a LEN user under 0xFFFF80FF,
PBKDF2 under 0xFF8080FF. -/
def opcodeTable : List TableRow :=
  [⟨.sha1Init, 0x00000001, 0xFFFFFFFF⟩, ⟨.sha1Update, 0x00000002, 0xFFFF80FF⟩,
   ⟨.sha1Final, 0x00000003, 0xFFFFFFFF⟩, ⟨.sha1Oneshot, 0x00000004, 0xFFFF80FF⟩,
   ⟨.hmacKeyBegin, 0x00000010, 0xFFFFFFFF⟩, ⟨.hmacKeyAbsorb, 0x00000011, 0xFFFF80FF⟩,
   ⟨.hmacKeyAbsorbOut, 0x00000012, 0xFFFF80FF⟩, ⟨.hmacKeyEnd, 0x00000013, 0xFFFFFFFF⟩,
   ⟨.hmacInit, 0x00000014, 0xFFFFFFFF⟩, ⟨.hmacUpdate, 0x00000015, 0xFFFF80FF⟩,
   ⟨.hmacFinal, 0x00000016, 0xFFFFFFFF⟩, ⟨.hmacOneshot, 0x00000017, 0xFFFF80FF⟩,
   ⟨.keyClear, 0x00000018, 0xFFFFFFFF⟩, ⟨.pbkdf2, 0x00000020, 0xFF8080FF⟩,
   ⟨.crcInit, 0x00000030, 0xFFFFFFFF⟩, ⟨.crcUpdate, 0x00000031, 0xFFFF80FF⟩,
   ⟨.crcOneshot, 0x00000032, 0xFFFF80FF⟩, ⟨.zeroize, 0x0000003F, 0xFFFFFFFF⟩]

/-- The instruction this decoder reads from an instruction of `nbits` bits whose bits are `w`, every bit from `nbits`
up being 0. A command is one 32-bit word (R80), so a longer one is none (log 8). -/
def decodeTableWord (nbits w : Nat) : Option Instr :=
  if nbits ≤ 32 then (decode (BitVec.ofNat 32 (w % 2 ^ nbits))).toOption else none

end Sys2Proof
end

