-- ==== Sys2Proof/Machine/State.lean ====
section
/-! DEFINITION. The state of the block (10_state.md R20-R30), the model's own surroundings of it, the reasons a step can
stop, and the state after reset (10_state.md R44). -/

namespace Sys2Proof.Machine

/-- Five 32-bit words h0..h4: a chaining value (10_state.md R25), an inner or outer key state (R26). -/
structure Chain where
  h0 : Word
  h1 : Word
  h2 : Word
  h3 : Word
  h4 : Word
deriving DecidableEq, Repr

/-- Five zero words, the value of a zeroized chaining value (10_state.md R25, R26). -/
def Chain.zero : Chain := ⟨0, 0, 0, 0, 0⟩

/-- `CtxMode` (10_state.md R25). -/
inductive CtxMode where
  | idle | sha | hmac
deriving DecidableEq, Repr

/-- `Ctx`, a message hash context (10_state.md R25). -/
structure Ctx where
  mode : CtxMode
  h : Chain
  blk : List Byte
  len : Nat
deriving DecidableEq, Repr

/-- `IDLE0`, the zeroized context (10_state.md R25). -/
def Ctx.idle0 : Ctx := { mode := .idle, h := Chain.zero, blk := [], len := 0 }

/-- `KAcc`, the key bytes absorbed so far (10_state.md R27). -/
inductive KAcc where
  | short (s : List Byte)
  | long (c : Ctx)
deriving DecidableEq, Repr

/-- `KeyMode` (10_state.md R26). -/
inductive KeyMode where
  | none | loading | ready
deriving DecidableEq, Repr

/-- `Key`, the HMAC key state (10_state.md R26). -/
structure Key where
  kmode : KeyMode
  iks : Chain
  oks : Chain
  kacc : KAcc
deriving DecidableEq, Repr

/-- `KEY0`, the zeroized key state (10_state.md R26). -/
def Key.key0 : Key := { kmode := .none, iks := Chain.zero, oks := Chain.zero, kacc := .short [] }

/-- The block's whole architectural state: exactly the record of 10_state.md R20. -/
structure Block where
  /-- input buffer (R23) -/
  inbuf : Vector Byte Config.inbufBytes
  /-- output buffer (R24) -/
  out : Vector Byte Config.outBytes
  /-- message hash context (R25) -/
  ctx : Ctx
  /-- HMAC key state and key accumulator (R26, R27) -/
  key : Key
  /-- CRC-16 running value (R28) -/
  crc : Word16
  /-- PBKDF2 iteration count (R29) -/
  iter : Word
  /-- interrupt enable (R30) -/
  irqEn : Bool
  /-- a command is pending (R30) -/
  busy : Bool
  /-- the pending command word (R30) -/
  pending : Word
  /-- a command has completed (R30) -/
  done : Bool
  /-- the last completed command failed (R30) -/
  err : Bool
  /-- its error code (R30) -/
  errcode : Byte
  /-- a write was dropped while busy (R30) -/
  wdrop : Bool
  /-- opcode field of the last issued command (R30) -/
  lastop : Byte
deriving DecidableEq, Repr

/-- `RESET_STATE` (10_state.md R44). -/
def Block.reset : Block where
  inbuf := Vector.replicate _ 0
  out := Vector.replicate _ 0
  ctx := Ctx.idle0
  key := Key.key0
  crc := Config.crcSeed
  iter := 0
  irqEn := false
  busy := false
  pending := 0
  done := false
  err := false
  errcode := 0
  wdrop := false
  lastop := 0

/-- A step of one of the agents, as the interleaving of 20_memory.md R62 lists it (log 1). -/
inductive Event where
  /-- Host: one bus access (20_memory.md R56). -/
  | access (a : Access)
  /-- Host: the `wait` loop (30_encoding.md R90). `polls` is how many of its reads of STATUS may still find BUSY = 1
  before the engine's step falls; the spec leaves that number open (70_reset_and_hazards.md R233; log 5). -/
  | wait (polls : Nat)
  /-- Engine: its completion step, enabled exactly when `busy = 1` (60_exceptions.md R201). -/
  | engine
  /-- Reset: the reset input (70_reset_and_hazards.md R220). -/
  | reset
  /-- Reset: the reset input, overlapping a host access, which is performed before the reset or lost
  (70_reset_and_hazards.md R221; log 9). -/
  | resetOverlap (a : Access) (performed : Bool)
  /-- A bus access by a second bus master, which the model refuses (60_exceptions.md R215; log 10). -/
  | otherMaster (a : Access)
deriving DecidableEq, Repr

/-- What the bus answers to a host access (20_memory.md R56). -/
inductive Reply where
  /-- the value of a read -/
  | value (v : Word)
  /-- a write was taken (whether or not it had an effect) -/
  | written
  /-- the bus error response `raise BusError(off)` -/
  | busError (off : Offset)
deriving DecidableEq, Repr

/-- The state of the machine: the block, and the model's own two fields, which are its surroundings as plain data. -/
structure State extends Block where
  /-- MODEL's own: the agents' steps still to come, the first one first (log 1). -/
  agenda : List Event
  /-- MODEL's own: the bus's answers to the host so far, newest first (log 2). -/
  replies : List Reply
deriving DecidableEq, Repr

/-- The reasons a step stops with a fault: none. Command errors and bus errors do not stop the block: they are next
states (60_exceptions.md R202, R206, R211; log 14). -/
inductive Fault where
deriving DecidableEq, Repr

/-- The reasons a step is refused. -/
inductive Refusal where
  /-- An instruction without a meaning, named by its mnemonic. Nothing raises it: every command has its meaning.
  Safe. -/
  | notModelled (mnemonic : String)
  /-- Raised by `step` for an access by a second bus master: "A model treats a second host agent as out of scope
  (refused), not as a race with a defined outcome" (60_exceptions.md R215). Safe. -/
  | secondMaster
deriving DecidableEq, Repr

/-- The machine right after reset (10_state.md R44), with nothing scheduled and nothing answered (log 1, log 2). -/
def State.reset : State := { toBlock := Block.reset, agenda := [], replies := [] }

/-- The answer of every step of this machine. -/
abbrev Answer := Host.Outcome State Fault Refusal

end Sys2Proof.Machine
end

