-- ==== Sys2Proof/Machine/Operands.lean ====
section
/-! DEFINITION. Words, byte orders and byte sequences (00_scope.md R10, R11), the two byte buffers and their lanes
(20_memory.md R53), and the operands a command takes from them (30_encoding.md R82-R84). -/

namespace Sys2Proof.Machine

/-! ### Words and byte orders -/

/-- `rol(x, n)` for 0 < n < 32 (00_scope.md R10). -/
def rol (x : Word) (n : Nat) : Word := (x <<< n) ||| (x >>> (32 - n))

/-- Byte `j` of a word, bits `[8j+7:8j]`. -/
def byteLane (v : Word) (j : Nat) : Byte := v.extractLsb' (8 * j) 8

/-- `BE32(v)`: the 4 bytes of a word, most significant first (00_scope.md R11). -/
def be32 (v : Word) : List Byte := [byteLane v 3, byteLane v 2, byteLane v 1, byteLane v 0]

/-- `BE64(v)`: the 8 bytes of a 64-bit value, most significant first (00_scope.md R11). -/
def be64 (v : BitVec 64) : List Byte := be32 (v.extractLsb' 32 32) ++ be32 (v.extractLsb' 0 32)

/-- `LE16(v)`: the 2 bytes of a 16-bit value, least significant first (00_scope.md R11). -/
def le16 (v : Word16) : List Byte := [v.extractLsb' 0 8, v.extractLsb' 8 8]

/-- `LE32(b0 b1 b2 b3)` (20_memory.md R57). -/
def le32 (b0 b1 b2 b3 : Byte) : Word :=
  b0.setWidth 32 ||| b1.setWidth 32 <<< 8 ||| b2.setWidth 32 <<< 16 ||| b3.setWidth 32 <<< 24

/-- A big-endian word of four bytes (40_sha1.md R112). -/
def beWord (b0 b1 b2 b3 : Byte) : Word :=
  b0.setWidth 32 <<< 24 ||| b1.setWidth 32 <<< 16 ||| b2.setWidth 32 <<< 8 ||| b3.setWidth 32

/-- `s[i]`: byte `i` of a sequence (00_scope.md R11); 0 past its end, where no rule reads. -/
def byteAt (s : List Byte) (i : Nat) : Byte := s.getD i 0

/-- `c^n`: `n` copies of a byte (00_scope.md R11). -/
def copies (c : Byte) (n : Nat) : List Byte := List.replicate n c

/-- `s xor t` on byte sequences, bytewise (00_scope.md R11). -/
def xorBytes (s t : List Byte) : List Byte := List.zipWith (· ^^^ ·) s t

/-! ### Byte buffers -/

/-- A buffer of `n` bytes that begins with the bytes of `s` and is zero after them. -/
def padTo (n : Nat) (s : List Byte) : Vector Byte n :=
  ⟨((s ++ copies 0 n).take n).toArray, by simp [copies]⟩

/-- The buffer `0^n`. -/
def zeroBuf (n : Nat) : Vector Byte n := Vector.replicate n 0

/-- Word `w` of a buffer in little-endian byte lanes: byte `4w+j` is bits `[8j+7:8j]` (20_memory.md R53, 10_state.md
R38, R39). -/
def bufWord {n : Nat} (b : Vector Byte n) (w : Nat) : Word :=
  le32 (byteAt b.toList (4 * w)) (byteAt b.toList (4 * w + 1)) (byteAt b.toList (4 * w + 2)) (byteAt b.toList (4 * w + 3))

/-- A buffer with word `w` replaced: `b[4w+j] <- v[8j+7:8j]` for j = 0..3 (10_state.md R38). -/
def setBufWord {n : Nat} (b : Vector Byte n) (w : Nat) (v : Word) : Vector Byte n :=
  (((b.setIfInBounds (4 * w) (byteLane v 0)).setIfInBounds (4 * w + 1) (byteLane v 1)).setIfInBounds (4 * w + 2)
    (byteLane v 2)).setIfInBounds (4 * w + 3) (byteLane v 3)

/-! ### Operands -/

/-- `inbuf[0..n)`, the byte operand LEN selects (30_encoding.md R82). -/
def Block.inBytes (b : Block) (n : Count) : List Byte := b.inbuf.toList.take n.toNat

/-- `out[0..n)`, the byte operand of HMAC_KEY_ABSORB_OUT (30_encoding.md R82). -/
def Block.outBytes (b : Block) (n : Count) : List Byte := b.out.toList.take n.toNat

/-- `out[0..k) <- d; out[k..80) <- 0^(80-k)` for a result `d` of `k` bytes (40_sha1.md R122, 42_pbkdf2.md R163). -/
def Block.setOut (b : Block) (d : List Byte) : Block := { b with out := padTo Config.outBytes d }

/-- `inbuf <- 0^64` (41_hmac.md R147). -/
def Block.zeroInbuf (b : Block) : Block := { b with inbuf := zeroBuf Config.inbufBytes }

/-- `out <- 0^80` (41_hmac.md R148). -/
def Block.zeroOut (b : Block) : Block := { b with out := zeroBuf Config.outBytes }

end Sys2Proof.Machine
end

