-- ==== Sys2Proof/Machine/Flags.lean ====
section
/-! DEFINITION. The error codes (60_exceptions.md R203), the status and control values the host reads (10_state.md
R32, R33, R36, R37) and the interrupt line (R43). -/

namespace Sys2Proof.Machine

/-- The command errors (60_exceptions.md R203). -/
inductive CmdError where
  | illegalOpcode | reservedBits | badLen | badDklen | badIter | noKey | badState | lengthOverflow
deriving DecidableEq, Repr

/-- The code of a command error (60_exceptions.md R203). -/
def CmdError.code : CmdError → Byte
  | .illegalOpcode => 0x01
  | .reservedBits => 0x02
  | .badLen => 0x03
  | .badDklen => 0x04
  | .badIter => 0x05
  | .noKey => 0x06
  | .badState => 0x07
  | .lengthOverflow => 0x08

/-- STATUS.CTXMODE: 0 Idle, 1 Sha, 2 Hmac (10_state.md R33). -/
def CtxMode.bits : CtxMode → BitVec 2
  | .idle => 0
  | .sha => 1
  | .hmac => 2

/-- One flag as a bit. -/
def bit (b : Bool) : BitVec 1 := BitVec.ofBool b

/-- The value of STATUS: from bit 31 down, zeros, LASTOP, ERRCODE, CTXMODE, KEY_LOADING, KEY_READY, WDROP, ERR, DONE and
BUSY (10_state.md R33). -/
def Block.statusValue (b : Block) : Word :=
  0#8 ++ b.lastop ++ b.errcode ++ b.ctx.mode.bits ++ bit (b.key.kmode == .loading) ++ bit (b.key.kmode == .ready)
    ++ bit b.wdrop ++ bit b.err ++ bit b.done ++ bit b.busy

/-- The value of CTRL: `zext_32(irq_en) << 1` (10_state.md R32). -/
def Block.ctrlValue (b : Block) : Word := (bit b.irqEn).setWidth 32 <<< 1

/-- The value of CRC: the running value low and its one's complement high (10_state.md R36); 0 while busy (20_memory.md
R57). -/
def Block.crcValue (b : Block) : Word :=
  if b.busy then 0 else b.crc.setWidth 32 ||| (b.crc ^^^ 0xFFFF).setWidth 32 <<< 16

/-- `ctx.len[31:0]` or `ctx.len[63:32]`, by the word's number; 0 while Idle or busy (10_state.md R37, 20_memory.md
R57). -/
def Block.msglenValue (b : Block) (word : Nat) : Word :=
  if b.busy ∨ b.ctx.mode = .idle then 0 else BitVec.ofNat 32 (b.ctx.len >>> (32 * word))

/-- The level of the output line `irq = irq_en and done` (10_state.md R43, 60_exceptions.md R209). -/
def Block.irq (b : Block) : Bool := b.irqEn && b.done

/-- What the platform's interrupt controller is shown: its line `IRQ_ROUTE` at the level of `irq` (60_exceptions.md
R209; log 13). -/
def Block.irqAtPlatform (b : Block) : Nat × Bool := (Config.irqRoute, b.irq)

/-- A host write to STATUS: the write-one-to-clear bits (10_state.md R33, 20_memory.md R58). It is the acknowledge, the
"return" from a completion or a command error (60_exceptions.md R207). -/
def Block.writeStatus (b : Block) (v : Word) : Block :=
  { b with
    done := b.done && !v.getLsbD 1
    err := b.err && !v.getLsbD 2
    errcode := if v.getLsbD 2 then 0 else b.errcode
    wdrop := b.wdrop && !v.getLsbD 3 }

end Sys2Proof.Machine
end

