-- ==== Sys2Proof/Machine/Ops.lean ====
section
/-! DEFINITION. The shared operations: completing a command, with taking a command error as one operation
(60_exceptions.md R201-R205), issuing one (R200), reset (70_reset_and_hazards.md R220), the register window and a host
access (20_memory.md R51-R59). -/

namespace Sys2Proof.Machine

/-! ### Completion and command errors -/

/-- Completion without an error: `busy <- 0; pending <- 0; done <- 1`, with `err` and `errcode` clear (60_exceptions.md
R201, 40_sha1.md section 2; log 6). -/
def Block.completeOk (b : Block) : Block :=
  { b with busy := false, pending := 0, done := true, err := false, errcode := 0 }

/-- TAKING A COMMAND ERROR, `raise CmdError(e)`: completion with `err <- 1; errcode <- code(e)` (60_exceptions.md R201,
R202). Nothing else is saved, and the block goes on (R206). -/
def Block.completeErr (e : CmdError) (b : Block) : Block :=
  { b with busy := false, pending := 0, done := true, err := true, errcode := e.code }

/-- The zeroing that happens on every outcome: HMAC_KEY_ABSORB zeroes `inbuf`, HMAC_KEY_ABSORB_OUT zeroes `out`
(60_exceptions.md R205). -/
def Block.zeroKeySource (op : Opcode) (b : Block) : Block :=
  match op with
  | .hmacKeyAbsorb => b.zeroInbuf
  | .hmacKeyAbsorbOut => b.zeroOut
  | .sha1Init | .sha1Update | .sha1Final | .sha1Oneshot | .hmacKeyBegin | .hmacKeyEnd | .hmacInit | .hmacUpdate
  | .hmacFinal | .hmacOneshot | .keyClear | .pbkdf2 | .crcInit | .crcUpdate | .crcOneshot | .zeroize => b

/-- One validation check: whether it fails, and the error it then gives (60_exceptions.md R204). -/
abbrev Check := Bool × CmdError

/-- The first failing check's error: only it is reported (60_exceptions.md R204). -/
def firstError : List Check → Option CmdError
  | [] => none
  | (fails, e) :: rest => if fails then some e else firstError rest

/-- Check 3 of R204: LEN > 64 is BAD_LEN. -/
def checkLen (n : Count) : Check := (!lenOk n, .badLen)

/-- Check 4 of R204: DKLEN = 0 or DKLEN > 80 is BAD_DKLEN. -/
def checkDklen (d : Count) : Check := (!dklenOk d, .badDklen)

/-- Check 5 of R204: `iter = 0` is BAD_ITER. -/
def checkIter (b : Block) : Check := (b.iter == 0, .badIter)

/-- Check 6 of R204: `key.kmode` is not Ready: NO_KEY. -/
def checkKey (b : Block) : Check := (b.key.kmode != .ready, .noKey)

/-- Check 7 of R204, on the context: `ctx.mode` is not the one required: BAD_STATE. -/
def checkCtx (b : Block) (m : CtxMode) : Check := (b.ctx.mode != m, .badState)

/-- Check 7 of R204, on the key: `key.kmode` is not Loading: BAD_STATE. -/
def checkLoading (b : Block) : Check := (b.key.kmode != .loading, .badState)

/-- Check 8 of R204: the byte count after the absorb would pass `MAXLEN_BYTES`: LENGTH_OVERFLOW (40_sha1.md R118). -/
def checkLength (total : Nat) : Check := (decide (Config.maxlenBytes < total), .lengthOverflow)

/-- A decoded command run to completion: its checks in their order, all before any effect (60_exceptions.md R204), then
its effect on the block, then the completion (R201, R205). -/
def runCommand (op : Opcode) (checks : List Check) (effect : Block → Block) (s : State) : Answer :=
  match firstError checks with
  | some e => .next { s with toBlock := (s.zeroKeySource op).completeErr e }
  | none => .next { s with toBlock := ((effect s.toBlock).zeroKeySource op).completeOk }

/-- The completion of a pending word that stands for no command (60_exceptions.md R201, R205): an illegal opcode zeroes
nothing, a word with reserved bits set zeroes what its opcode zeroes on every outcome. -/
def Block.completeUndecoded (e : DecodeError) (b : Block) : Block :=
  match e with
  | .illegalOpcode => b.completeErr .illegalOpcode
  | .reservedBits op => (b.zeroKeySource op).completeErr .reservedBits

/-! ### Issue and reset -/

/-- `issue(v)` (60_exceptions.md R200). -/
def Block.issue (b : Block) (v : Word) : Block :=
  { b with busy := true, pending := v, done := false, err := false, errcode := 0, lastop := v.extractLsb' 0 8 }

/-- The reset input: every field takes its reset value, whatever it held (70_reset_and_hazards.md R220, 10_state.md
R44). -/
def Block.resetInput (_ : Block) : Block := Block.reset

/-- `soft_reset()`: exactly the effect of the reset input (44_system.md R192). -/
def Block.softReset (b : Block) : Block := b.resetInput

/-! ### The register window -/

/-- The register at an offset that is a multiple of 4 (10_state.md R40). -/
def regAt (off : Offset) : Reg :=
  let o := off.toNat
  if o = 0x00 then .id
  else if o = 0x04 then .version
  else if o = 0x08 then .ctrl
  else if o = 0x0C then .status
  else if o = 0x10 then .cmd
  else if o = 0x14 then .iter
  else if o = 0x18 then .crc
  else if o = 0x1C then .msglenLo
  else if o = 0x20 then .msglenHi
  else if 0x40 ≤ o ∧ o < 0x80 then .inbuf (Fin.ofNat 16 ((o - 0x40) / 4))
  else if 0x80 ≤ o ∧ o < 0xD0 then .out (Fin.ofNat 20 ((o - 0x80) / 4))
  else .reserved

/-- The offset of a named register; a reserved offset has no name (10_state.md R40). -/
def regOffset : Reg → Option Offset
  | .id => some 0x00
  | .version => some 0x04
  | .ctrl => some 0x08
  | .status => some 0x0C
  | .cmd => some 0x10
  | .iter => some 0x14
  | .crc => some 0x18
  | .msglenLo => some 0x1C
  | .msglenHi => some 0x20
  | .inbuf w => some (BitVec.ofNat 8 (0x40 + 4 * w.val))
  | .out w => some (BitVec.ofNat 8 (0x80 + 4 * w.val))
  | .reserved => none

/-- The platform's routing of a bus address: an access in `[BASE, BASE + 0x100)` reaches the block, which decodes only
bits [7:0] of the address (20_memory.md R51; log 13). -/
def routeToBlock (base addr : Nat) : Option Offset :=
  if base ≤ addr ∧ addr < base + Config.window then some (BitVec.ofNat 8 addr) else none

/-- `read_reg` (20_memory.md R57, R59). -/
def Block.readReg (b : Block) : Reg → Word
  | .id => 0x53484131
  | .version => 0x00000001
  | .ctrl => b.ctrlValue
  | .status => b.statusValue
  | .cmd => 0
  | .iter => b.iter
  | .crc => b.crcValue
  | .msglenLo => b.msglenValue 0
  | .msglenHi => b.msglenValue 1
  | .inbuf w => if b.busy then 0 else bufWord b.inbuf w.val
  | .out w => if b.busy then 0 else bufWord b.out w.val
  | .reserved => 0

/-- A write that CMD, ITER or INBUF drops while busy: it changes nothing but `wdrop` (20_memory.md R58). -/
def Block.dropWrite (b : Block) : Block := { b with wdrop := true }

/-- `write_reg` (20_memory.md R58, R59). -/
def Block.writeReg (b : Block) (r : Reg) (v : Word) : Block :=
  match r with
  | .ctrl => if v.getLsbD 0 then b.softReset else { b with irqEn := v.getLsbD 1 }
  | .status => b.writeStatus v
  | .cmd => if b.busy then b.dropWrite else b.issue v
  | .iter => if b.busy then b.dropWrite else { b with iter := v }
  | .inbuf w => if b.busy then b.dropWrite else { b with inbuf := setBufWord b.inbuf w.val v }
  | .id | .version | .crc | .msglenLo | .msglenHi | .out _ | .reserved => b

/-- An access is legal: 32 bits wide at a multiple of 4 (20_memory.md R56). -/
def accessLegal (off : Offset) (n : Nat) : Bool := n == 4 && off.toNat % 4 == 0

/-- `access(kind, off, n, v)`: the answer and the block after it; an illegal access gets the bus error and changes
nothing (20_memory.md R56, 60_exceptions.md R211). -/
def Block.access (b : Block) : Access → Reply × Block
  | .read off n => if accessLegal off n then (.value (b.readReg (regAt off)), b) else (.busError off, b)
  | .write off n v => if accessLegal off n then (.written, b.writeReg (regAt off) v) else (.busError off, b)

/-- One host access as a step of the Host (20_memory.md R62): the block's part and the answer (log 2). -/
def State.hostAccess (s : State) (a : Access) : State :=
  { s with toBlock := (s.toBlock.access a).2, replies := (s.toBlock.access a).1 :: s.replies }

/-- The read of STATUS that the `wait` loop makes (30_encoding.md R90). -/
def statusPoll : Access := .read 0x0C 4

/-- A step of the Reset agent (70_reset_and_hazards.md R220). The model's own fields are no part of the block. -/
def State.resetStep (s : State) : State := { s with toBlock := s.toBlock.resetInput }

/-- A reset that overlaps a host access, which is performed before it or lost (70_reset_and_hazards.md R221; log 9). -/
def State.resetOverlapStep (s : State) (a : Access) (performed : Bool) : State :=
  if performed then (s.hostAccess a).resetStep else s.resetStep

end Sys2Proof.Machine
end

