-- ==== Sys2Proof/Machine/Crc.lean ====
section
/-! DEFINITION. The CRC-16 function (43_crc16.md R170-R172) and the CRC commands (R173-R175). -/

namespace Sys2Proof.Machine

/-- One of the 8 iterations of `step`: shift right, and XOR 0x8408 if the low bit was set (43_crc16.md R170). -/
def crcBit (c : Word16) : Word16 := if c.getLsbD 0 then (c >>> 1) ^^^ Config.crcPoly else c >>> 1

/-- `step(c, b)`: the byte is XORed into the low byte, then 8 iterations (43_crc16.md R170). -/
def crcByte (c : Word16) (b : Byte) : Word16 := Nat.iterate crcBit 8 (c ^^^ b.setWidth 16)

/-- `fold(step, c, m)` (43_crc16.md R171, R174). -/
def crcFold (c : Word16) (m : List Byte) : Word16 := m.foldl crcByte c

/-- `crc16(m)` (43_crc16.md R171). -/
def crc16 (m : List Byte) : Word16 := crcFold Config.crcSeed m

/-- CRC_INIT (43_crc16.md R173). -/
def execCrcInit (s : State) : Answer :=
  runCommand .crcInit [] (fun b => { b with crc := Config.crcSeed }) s

/-- CRC_UPDATE (43_crc16.md R174). -/
def execCrcUpdate (n : Count) (s : State) : Answer :=
  runCommand .crcUpdate [checkLen n] (fun b => { b with crc := crcFold b.crc (b.inBytes n) }) s

/-- CRC_ONESHOT (43_crc16.md R175). -/
def execCrcOneshot (n : Count) (s : State) : Answer :=
  runCommand .crcOneshot [checkLen n] (fun b => { b with crc := crc16 (b.inBytes n) }) s

end Sys2Proof.Machine
end

