-- ==== Sys2Proof/Machine/Sha1.lean ====
section
/-! DEFINITION. The SHA-1 function (40_sha1.md R110-R119) and the SHA-1 commands (R120-R123). -/

namespace Sys2Proof.Machine

/-! ### The SHA-1 function -/

/-- `H_INIT` (40_sha1.md R110). -/
def hInit : Chain := ⟨0x67452301, 0xEFCDAB89, 0x98BADCFE, 0x10325476, 0xC3D2E1F0⟩

/-- `CTX_SHA0`, the fresh plain-SHA-1 context (40_sha1.md R110). -/
def ctxSha0 : Ctx := { mode := .sha, h := hInit, blk := [], len := 0 }

/-- `f_t(b, c, d)` (40_sha1.md R111). -/
def shaF (t : Nat) (b c d : Word) : Word :=
  if t < 20 then (b &&& c) ||| (~~~b &&& d)
  else if t < 40 then b ^^^ c ^^^ d
  else if t < 60 then (b &&& c) ||| (b &&& d) ||| (c &&& d)
  else b ^^^ c ^^^ d

/-- `K_t` (40_sha1.md R111). -/
def shaK (t : Nat) : Word :=
  if t < 20 then 0x5A827999
  else if t < 40 then 0x6ED9EBA1
  else if t < 60 then 0x8F1BBCDC
  else 0xCA62C1D6

/-- `W[t]` for t = 0..15: big-endian word `t` of a block (40_sha1.md R112). -/
def blockWord (blk : List Byte) (t : Nat) : Word :=
  beWord (byteAt blk (4 * t)) (byteAt blk (4 * t + 1)) (byteAt blk (4 * t + 2)) (byteAt blk (4 * t + 3))

/-- `W[t] = rol(W[t-3] xor W[t-8] xor W[t-14] xor W[t-16], 1)`, on the schedule so far, newest word first
(40_sha1.md R112). -/
def nextWord (newestFirst : List Word) : Word :=
  rol (newestFirst.getD 2 0 ^^^ newestFirst.getD 7 0 ^^^ newestFirst.getD 13 0 ^^^ newestFirst.getD 15 0) 1

/-- `k` more words of the schedule, newest word first. -/
def extendSchedule : Nat → List Word → List Word
  | 0, ws => ws
  | k + 1, ws => extendSchedule k (nextWord ws :: ws)

/-- The 80 words `W[0..79]` of a 64-byte block (40_sha1.md R112). -/
def schedule (blk : List Byte) : List Word :=
  (extendSchedule 64 ((List.range 16).map (blockWord blk)).reverse).reverse

/-- Round `t` on (a, b, c, d, e), held as h0..h4 (40_sha1.md R113). -/
def shaRound (t : Nat) (w : Word) (v : Chain) : Chain :=
  ⟨rol v.h0 5 + shaF t v.h1 v.h2 v.h3 + v.h4 + shaK t + w, v.h0, rol v.h1 30, v.h2, v.h3⟩

/-- The rounds from `t` on, one for each word of the schedule (40_sha1.md R113). -/
def shaRounds : Nat → List Word → Chain → Chain
  | _, [], v => v
  | t, w :: ws, v => shaRounds (t + 1) ws (shaRound t w v)

/-- Wordwise addition modulo 2^32 (40_sha1.md R113, R119). -/
def Chain.add (x y : Chain) : Chain := ⟨x.h0 + y.h0, x.h1 + y.h1, x.h2 + y.h2, x.h3 + y.h3, x.h4 + y.h4⟩

/-- `compress(h, B)` (40_sha1.md R113). -/
def compress (h : Chain) (blk : List Byte) : Chain := h.add (shaRounds 0 (schedule blk) h)

/-- One byte of `absorb`: appended to the partial block, which is compressed when it reaches 64 bytes (40_sha1.md
R114). -/
def absorbByte (c : Ctx) (x : Byte) : Ctx :=
  if (c.blk ++ [x]).length = Config.shaBlock then { c with h := compress c.h (c.blk ++ [x]), blk := [] }
  else { c with blk := c.blk ++ [x] }

/-- `absorb(c, m)` (40_sha1.md R114). -/
def absorb (c : Ctx) (m : List Byte) : Ctx := { m.foldl absorbByte c with len := c.len + m.length }

/-- `digest(h)` (40_sha1.md R116). -/
def digest (h : Chain) : List Byte := be32 h.h0 ++ be32 h.h1 ++ be32 h.h2 ++ be32 h.h3 ++ be32 h.h4

/-- `z = (55 - |blk|) mod 64`, the zero bytes of the padding (40_sha1.md R115). -/
def padZeros (blkLen : Nat) : Nat := ((55 - (blkLen : Int)) % 64).toNat

/-- `L = (8 * len) mod 2^64`, the message length in bits (40_sha1.md R115). -/
def bitLength (len : Nat) : BitVec 64 := BitVec.ofNat 64 (8 * len)

/-- `[0x80] ‖ 0^z ‖ BE64(L)`, the padding of a context (40_sha1.md R115). -/
def padding (c : Ctx) : List Byte := 0x80 :: (copies 0 (padZeros c.blk.length) ++ be64 (bitLength c.len))

/-- `finalize(c)` (40_sha1.md R115). -/
def finalize (c : Ctx) : List Byte := digest (absorb c (padding c)).h

/-- `sha1(m)` (40_sha1.md R117). -/
def sha1 (m : List Byte) : List Byte := finalize (absorb ctxSha0 m)

/-! ### The commands -/

/-- SHA1_INIT (40_sha1.md R120). -/
def execSha1Init (s : State) : Answer :=
  runCommand .sha1Init [] (fun b => { b with ctx := ctxSha0 }) s

/-- SHA1_UPDATE (40_sha1.md R121). -/
def execSha1Update (n : Count) (s : State) : Answer :=
  runCommand .sha1Update
    [checkLen n, checkCtx s.toBlock .sha, checkLength (s.ctx.len + n.toNat)]
    (fun b => { b with ctx := absorb b.ctx (b.inBytes n) }) s

/-- SHA1_FINAL (40_sha1.md R122). -/
def execSha1Final (s : State) : Answer :=
  runCommand .sha1Final [checkCtx s.toBlock .sha]
    (fun b => { b.setOut (finalize b.ctx) with ctx := Ctx.idle0 }) s

/-- SHA1_ONESHOT (40_sha1.md R123). -/
def execSha1Oneshot (n : Count) (s : State) : Answer :=
  runCommand .sha1Oneshot [checkLen n]
    (fun b => { b.setOut (sha1 (b.inBytes n)) with ctx := Ctx.idle0 }) s

end Sys2Proof.Machine
end

