-- ==== Sys2Proof/Machine/Hmac.lean ====
section
/-! DEFINITION. The HMAC-SHA1 function (41_hmac.md R140-R145) and the HMAC commands (R146-R154). -/

namespace Sys2Proof.Machine

/-! ### The HMAC-SHA1 function -/

/-- `ipad = 0x36^64` (41_hmac.md R140). -/
def ipad : List Byte := copies 0x36 64

/-- `opad = 0x5C^64` (41_hmac.md R140). -/
def opad : List Byte := copies 0x5C 64

/-- `s ‖ 0^(64 - |s|)`: bytes zero-padded to one block (41_hmac.md R141, R143). -/
def padBlock (s : List Byte) : List Byte := s ++ copies 0 (64 - s.length)

/-- `K0(K)`, the padded key (41_hmac.md R141). -/
def paddedKey (k : List Byte) : List Byte := if k.length ≤ 64 then padBlock k else padBlock (sha1 k)

/-- `kappend` (41_hmac.md R142). -/
def kappend : KAcc → List Byte → KAcc
  | .short s, b => if s.length + b.length ≤ 64 then .short (s ++ b) else .long (absorb ctxSha0 (s ++ b))
  | .long c, b => .long (absorb c b)

/-- `klen` (41_hmac.md R142). -/
def klen : KAcc → Nat
  | .short s => s.length
  | .long c => c.len

/-- `kfinal` (41_hmac.md R143); `finalize` gives 20 bytes, so its padding is `0^44`. -/
def kfinal : KAcc → List Byte
  | .short s => padBlock s
  | .long c => finalize c ++ copies 0 44

/-- The inner half of `keystate(K0)`: `iks` (41_hmac.md R144). -/
def innerKey (k0 : List Byte) : Chain := compress hInit (xorBytes k0 ipad)

/-- The outer half of `keystate(K0)`: `oks` (41_hmac.md R144). -/
def outerKey (k0 : List Byte) : Chain := compress hInit (xorBytes k0 opad)

/-- `HCTX(h)`: a context that has absorbed one key block (41_hmac.md R145). -/
def hctx (h : Chain) : Ctx := { mode := .hmac, h := h, blk := [], len := 64 }

/-- `finalize(absorb(HCTX(oks), inner))`, the outer hash (41_hmac.md R145, R152). -/
def hmacOuter (oks : Chain) (inner : List Byte) : List Byte := finalize (absorb (hctx oks) inner)

/-- `hmacK((iks, oks), m)` (41_hmac.md R145). -/
def hmacK (iks oks : Chain) (m : List Byte) : List Byte := hmacOuter oks (finalize (absorb (hctx iks) m))

/-- `hmac(K, m)` (41_hmac.md R145). -/
def hmac (k m : List Byte) : List Byte := hmacK (innerKey (paddedKey k)) (outerKey (paddedKey k)) m

/-! ### The commands -/

/-- HMAC_KEY_BEGIN: refused while an HMAC message is in progress (41_hmac.md R146). -/
def execHmacKeyBegin (s : State) : Answer :=
  runCommand .hmacKeyBegin [(s.ctx.mode == .hmac, .badState)]
    (fun b => { b with key := { kmode := .loading, iks := Chain.zero, oks := Chain.zero, kacc := .short [] } }) s

/-- HMAC_KEY_ABSORB; `inbuf` is zeroed on every outcome by `runCommand` (41_hmac.md R147). -/
def execHmacKeyAbsorb (n : Count) (s : State) : Answer :=
  runCommand .hmacKeyAbsorb
    [checkLen n, checkLoading s.toBlock, checkLength (klen s.key.kacc + n.toNat)]
    (fun b => { b with key := { b.key with kacc := kappend b.key.kacc (b.inBytes n) } }) s

/-- HMAC_KEY_ABSORB_OUT; `out` is zeroed on every outcome by `runCommand` (41_hmac.md R148). -/
def execHmacKeyAbsorbOut (n : Count) (s : State) : Answer :=
  runCommand .hmacKeyAbsorbOut
    [checkLen n, checkLoading s.toBlock, checkLength (klen s.key.kacc + n.toNat)]
    (fun b => { b with key := { b.key with kacc := kappend b.key.kacc (b.outBytes n) } }) s

/-- HMAC_KEY_END (41_hmac.md R149). -/
def execHmacKeyEnd (s : State) : Answer :=
  runCommand .hmacKeyEnd [checkLoading s.toBlock]
    (fun b => { b with key := { kmode := .ready, iks := innerKey (kfinal b.key.kacc),
                                oks := outerKey (kfinal b.key.kacc), kacc := .short [] } }) s

/-- HMAC_INIT (41_hmac.md R150). -/
def execHmacInit (s : State) : Answer :=
  runCommand .hmacInit [checkKey s.toBlock] (fun b => { b with ctx := hctx b.key.iks }) s

/-- HMAC_UPDATE (41_hmac.md R151). -/
def execHmacUpdate (n : Count) (s : State) : Answer :=
  runCommand .hmacUpdate
    [checkLen n, checkCtx s.toBlock .hmac, checkLength (s.ctx.len + n.toNat)]
    (fun b => { b with ctx := absorb b.ctx (b.inBytes n) }) s

/-- HMAC_FINAL (41_hmac.md R152). -/
def execHmacFinal (s : State) : Answer :=
  runCommand .hmacFinal [checkCtx s.toBlock .hmac]
    (fun b => { b.setOut (hmacOuter b.key.oks (finalize b.ctx)) with ctx := Ctx.idle0 }) s

/-- HMAC_ONESHOT (41_hmac.md R153). -/
def execHmacOneshot (n : Count) (s : State) : Answer :=
  runCommand .hmacOneshot [checkLen n, checkKey s.toBlock]
    (fun b => { b.setOut (hmacK b.key.iks b.key.oks (b.inBytes n)) with ctx := Ctx.idle0 }) s

/-- KEY_CLEAR: the key is zeroized, and an HMAC message with it (41_hmac.md R154). -/
def execKeyClear (s : State) : Answer :=
  runCommand .keyClear []
    (fun b => { b with key := Key.key0, ctx := if b.ctx.mode = .hmac then Ctx.idle0 else b.ctx }) s

end Sys2Proof.Machine
end

