-- ==== Sys2Proof/Machine/Pbkdf2.lean ====
section
/-! DEFINITION. The PBKDF2 function (42_pbkdf2.md R160-R162) and its command (R163). -/

namespace Sys2Proof.Machine

/-- `k` more of the successive HMAC applications: `U = hmacK(ks, U); T = T xor U`, answering `T` (42_pbkdf2.md R161). -/
def pbkdf2Loop (iks oks : Chain) : Nat → List Byte → List Byte → List Byte
  | 0, _, t => t
  | k + 1, u, t => pbkdf2Loop iks oks k (hmacK iks oks u) (xorBytes t (hmacK iks oks u))

/-- `F(ks, S, c, i)`, one 20-byte block, for c ≥ 1 (42_pbkdf2.md R161). -/
def pbkdf2F (iks oks : Chain) (salt : List Byte) (c i : Nat) : List Byte :=
  let u1 := hmacK iks oks (salt ++ be32 (BitVec.ofNat 32 i))
  pbkdf2Loop iks oks (c - 1) u1 u1

/-- `ceil(dk / 20)`, the number of blocks (42_pbkdf2.md R162). -/
def pbkdf2Blocks (dk : Nat) : Nat := (dk + (Config.pbkdf2Block - 1)) / Config.pbkdf2Block

/-- `pbkdf2(ks, S, c, dk)`: blocks 1, 2, ..., truncated (42_pbkdf2.md R162). -/
def pbkdf2 (iks oks : Chain) (salt : List Byte) (c dk : Nat) : List Byte :=
  ((List.range (pbkdf2Blocks dk)).flatMap fun i => pbkdf2F iks oks salt c (i + 1)).take dk

/-- PBKDF2 (42_pbkdf2.md R163). -/
def execPbkdf2 (n d : Count) (s : State) : Answer :=
  runCommand .pbkdf2
    [checkLen n, checkDklen d, checkIter s.toBlock, checkKey s.toBlock, checkCtx s.toBlock .idle]
    (fun b => b.setOut (pbkdf2 b.key.iks b.key.oks (b.inBytes n) b.iter.toNat d.toNat)) s

end Sys2Proof.Machine
end

