-- ==== Sys2Proof/Machine/System.lean ====
section
/-! DEFINITION. The system command ZEROIZE (44_system.md R190). The other system operations are host writes: the soft
reset, the interrupt enable and the acknowledge (R191, R192) are in Ops and Flags. -/

namespace Sys2Proof.Machine

/-- Every buffer and context that can hold secret material, overwritten with zero (44_system.md R190). -/
def Block.zeroizeSecrets (b : Block) : Block :=
  { b.zeroInbuf.zeroOut with ctx := Ctx.idle0, key := Key.key0 }

/-- ZEROIZE (44_system.md R190). -/
def execZeroize (s : State) : Answer := runCommand .zeroize [] Block.zeroizeSecrets s

end Sys2Proof.Machine
end

