-- ==== Sys2Proof/Machine/Dispatch.lean ====
section
/-! DEFINITION. `exec(pending, S)`: the command rule of each command (60_exceptions.md R201, 30_encoding.md R85), its
completion included. -/

namespace Sys2Proof.Machine

/-- The meaning of each command (60_exceptions.md R201). -/
def exec (i : Instr) (s : State) : Host.Outcome State Fault Refusal :=
  match i with
  | .sha1Init => Sys2Proof.Machine.execSha1Init s
  | .sha1Update n => Sys2Proof.Machine.execSha1Update n s
  | .sha1Final => Sys2Proof.Machine.execSha1Final s
  | .sha1Oneshot n => Sys2Proof.Machine.execSha1Oneshot n s
  | .hmacKeyBegin => Sys2Proof.Machine.execHmacKeyBegin s
  | .hmacKeyAbsorb n => Sys2Proof.Machine.execHmacKeyAbsorb n s
  | .hmacKeyAbsorbOut n => Sys2Proof.Machine.execHmacKeyAbsorbOut n s
  | .hmacKeyEnd => Sys2Proof.Machine.execHmacKeyEnd s
  | .hmacInit => Sys2Proof.Machine.execHmacInit s
  | .hmacUpdate n => Sys2Proof.Machine.execHmacUpdate n s
  | .hmacFinal => Sys2Proof.Machine.execHmacFinal s
  | .hmacOneshot n => Sys2Proof.Machine.execHmacOneshot n s
  | .keyClear => Sys2Proof.Machine.execKeyClear s
  | .pbkdf2 n d => Sys2Proof.Machine.execPbkdf2 n d s
  | .crcInit => Sys2Proof.Machine.execCrcInit s
  | .crcUpdate n => Sys2Proof.Machine.execCrcUpdate n s
  | .crcOneshot n => Sys2Proof.Machine.execCrcOneshot n s
  | .zeroize => Sys2Proof.Machine.execZeroize s

end Sys2Proof.Machine
end

