-- ==== Sys2Proof/Machine/HostProgram.lean ====
section
/-! DEFINITION. The host-program syntax: its assembler, from statements to the Host's steps (30_encoding.md R88-R90;
log 15). -/

namespace Sys2Proof.Machine

/-- `off(REG)` as an access `MemRead(off(REG), 4)` (30_encoding.md R88); a reserved offset has no name. -/
def readOf (r : Reg) : Option Access := (regOffset r).map fun off => .read off 4

/-- `MemWrite(off(REG), 4, imm32)` (30_encoding.md R88). -/
def writeOf (r : Reg) (v : Word) : Option Access := (regOffset r).map fun off => .write off 4 v

/-- A LEN operand of the command syntax: absent is 0; one the mnemonic does not use, or outside 0..64, is refused
(30_encoding.md R89). -/
def assembleLen (op : Opcode) : Option Nat → Option Count
  | none => some 0
  | some n => if op.usesLen ∧ n ≤ Config.maxLen then some (BitVec.ofNat 7 n) else none

/-- A DKLEN operand of the command syntax: absent is 0 where the mnemonic does not use it; one it does not use, or
outside 1..80, is refused (30_encoding.md R89). -/
def assembleDklen (op : Opcode) : Option Nat → Option Count
  | none => if op.usesDklen then none else some 0
  | some d => if op.usesDklen ∧ 1 ≤ d ∧ d ≤ Config.maxDklen then some (BitVec.ofNat 7 d) else none

/-- The word of `cmd MNEMONIC [len=N] [dklen=D]` (30_encoding.md R89). -/
def assembleCmd (op : Opcode) (len dklen : Option Nat) : Option Word :=
  match assembleLen op len, assembleDklen op dklen with
  | some n, some d => some (commandWord op n d)
  | _, _ => none

/-- The word that `ldin` writes to `INBUF[w]`, missing bytes taken as 0 (30_encoding.md R90). -/
def ldinWord (bytes : List Byte) (w : Nat) : Word :=
  le32 (byteAt bytes (4 * w)) (byteAt bytes (4 * w + 1)) (byteAt bytes (4 * w + 2)) (byteAt bytes (4 * w + 3))

/-- The words that hold `k` bytes: `ceil(k/4)` (30_encoding.md R90). -/
def wordsFor (k : Nat) : Nat := (k + 3) / 4

/-- The Host's steps for one statement, with `polls` the number of reads of a `wait` loop that may find BUSY = 1 (log 5);
`none` where the assembler refuses it (30_encoding.md R88-R90). -/
def assemble (polls : Nat) : HostStmt → Option (List Event)
  | .wr r v => (writeOf r v).map fun a => [.access a]
  | .rd r => (readOf r).map fun a => [.access a]
  | .cmd op n d => (assembleCmd op n d).map fun w => [.access (.write 0x10 4 w)]
  | .wait => some [.wait polls]
  | .run op n d => (assembleCmd op n d).map fun w => [.access (.write 0x10 4 w), .wait polls]
  | .ldin bytes =>
    if bytes.length ≤ Config.inbufBytes then
      some ((List.range (wordsFor bytes.length)).map fun w =>
        .access (.write (BitVec.ofNat 8 (0x40 + 4 * w)) 4 (ldinWord bytes w)))
    else none
  | .setiter n => some [.access (.write 0x14 4 n)]
  | .ack => some [.access (.write 0x0C 4 0x0000000E)]
  | .irqOn => some [.access (.write 0x08 4 0x00000002)]
  | .irqOff => some [.access (.write 0x08 4 0x00000000)]
  | .srst => some [.access (.write 0x08 4 0x00000001)]
  | .rdout k =>
    if k ≤ Config.outBytes then
      some ((List.range (wordsFor k)).map fun w => .access (.read (BitVec.ofNat 8 (0x80 + 4 * w)) 4))
    else none

/-- A program: its statements' steps in order (30_encoding.md R88). -/
def assembleProgram (polls : Nat) : List HostStmt → Option (List Event)
  | [] => some []
  | p :: ps =>
    match assemble polls p, assembleProgram polls ps with
    | some es, some rest => some (es ++ rest)
    | _, _ => none

end Sys2Proof.Machine
end

