-- ==== Sys2Proof/Machine/Agents.lean ====
section
/-! DEFINITION. The steps of the three agents (00_scope.md R7), and which of them comes next (20_memory.md R62). -/

namespace Sys2Proof.Machine

/-- `complete()`, the engine's step while `busy = 1`: the pending word is decoded and run to its completion
(60_exceptions.md R201). -/
def engineStep (s : State) : Answer :=
  match decode s.pending with
  | .ok i => exec i s
  | .error e => .next { s with toBlock := s.toBlock.completeUndecoded e }

/-- A step of the machine (20_memory.md R62). The agenda says whose step is next; with nothing scheduled the engine
completes a pending command (70_reset_and_hazards.md R234), and an idle block holds its state (60_exceptions.md R217;
log 1, log 4). -/
def agentStep (s : State) : Answer :=
  match s.agenda with
  | [] => if s.busy then engineStep s else .next s
  | .engine :: rest => if s.busy then engineStep { s with agenda := rest } else .next { s with agenda := rest }
  | .access a :: rest => .next ({ s with agenda := rest }.hostAccess a)
  | .wait 0 :: rest => if s.busy then engineStep s else .next ({ s with agenda := rest }.hostAccess statusPoll)
  | .wait (k + 1) :: rest =>
    if s.busy then .next ({ s with agenda := .wait k :: rest }.hostAccess statusPoll)
    else .next ({ s with agenda := rest }.hostAccess statusPoll)
  | .reset :: rest => .next { s with agenda := rest }.resetStep
  | .resetOverlap a performed :: rest => .next ({ s with agenda := rest }.resetOverlapStep a performed)
  | .otherMaster _ :: _ => .refused .secondMaster

/-- The word of `nbits` bits `w`, zeros above them: a command is one 32-bit word (30_encoding.md R80). -/
def fetchWord (nbits w : Nat) : Word := BitVec.ofNat 32 (w % 2 ^ nbits)

end Sys2Proof.Machine
end

