-- ==== Sys2Proof/Machine/Step.lean ====
section
/-! DEFINITION. One step of the machine: one step of one agent (20_memory.md R62). -/

namespace Sys2Proof.Machine

/-- One step of the machine: the step of the agent whose turn it is (20_memory.md R62). -/
def step (s : State) : Host.Outcome State Fault Refusal := agentStep s

/-- The state in which the very next step runs the command word `w`: the word issued as an accepted write to CMD issues
it (60_exceptions.md R200), with nothing scheduled before the engine (log 3). -/
def State.withFetchWord (s : State) (nbits w : Nat) : State :=
  { s with toBlock := s.toBlock.issue (fetchWord nbits w), agenda := [] }

end Sys2Proof.Machine
end

