-- ==== Sys2Proof/Safety.lean ====
section
/-! DEFINITION. The terms of the claims about safe runs: the invariants of 10_state.md R45, what the host can see
(R41), and which schedules leave a pending command alone. -/

namespace Sys2Proof.Machine

/-- Invariant 7 of 10_state.md R45, on the accumulator. -/
def KAcc.Inv (k : KAcc) (m : KeyMode) : Prop :=
  match k with
  | .short s => s.length ≤ 64
  | .long c => c.mode = .sha ∧ 64 < c.len ∧ c.len ≤ Config.maxlenBytes ∧ m = .loading

/-- The invariants 1 to 9 of 10_state.md R45. -/
structure Block.Inv (b : Block) : Prop where
  /-- 1 -/
  idle_zeroized : b.ctx.mode = .idle → b.ctx = Ctx.idle0
  /-- 2 -/
  partial_block : b.ctx.mode ≠ .idle → b.ctx.blk.length = b.ctx.len % 64 ∧ b.ctx.len ≤ Config.maxlenBytes
  /-- 3 -/
  hmac_keyed : b.ctx.mode = .hmac → b.key.kmode = .ready ∧ 64 ≤ b.ctx.len
  /-- 4 -/
  no_key_zeroized : b.key.kmode = .none → b.key = Key.key0
  /-- 5 -/
  loading_zeroized : b.key.kmode = .loading → b.key.iks = Chain.zero ∧ b.key.oks = Chain.zero
  /-- 6 -/
  ready_zeroized : b.key.kmode = .ready → b.key.kacc = .short []
  /-- 7 -/
  accumulator : b.key.kacc.Inv b.key.kmode
  /-- 8 -/
  idle_pending : b.busy = false → b.pending = 0
  /-- 9 -/
  error_code : b.err = false ↔ b.errcode = 0

/-- A long accumulator's partial block fits its byte count: 10_state.md R25 and R27 read together (log 16). -/
def KAcc.PartialBlock : KAcc → Prop
  | .short _ => True
  | .long c => c.blk.length = c.len % 64

/-- Three more facts about every state a run reaches, which the spec implies and R45 does not list (log 16): while a
command is pending no completion flag is set (60_exceptions.md R200), no code above 8 is ever produced (R203), and a long
accumulator's partial block fits its count. -/
structure Block.InvMore (b : Block) : Prop where
  busy_flags_clear : b.busy = true → b.done = false ∧ b.err = false
  code_defined : b.errcode.toNat ≤ 8
  long_block : b.key.kacc.PartialBlock

/-- Two blocks agree on everything a register shows (10_state.md R41): not on `pending`, `ctx.h`, `ctx.blk`, `key.iks`,
`key.oks` or `key.kacc`. -/
structure Block.SameVisible (a b : Block) : Prop where
  inbuf : a.inbuf = b.inbuf
  out : a.out = b.out
  mode : a.ctx.mode = b.ctx.mode
  len : a.ctx.len = b.ctx.len
  kmode : a.key.kmode = b.key.kmode
  crc : a.crc = b.crc
  iter : a.iter = b.iter
  irqEn : a.irqEn = b.irqEn
  busy : a.busy = b.busy
  done : a.done = b.done
  err : a.err = b.err
  errcode : a.errcode = b.errcode
  wdrop : a.wdrop = b.wdrop
  lastop : a.lastop = b.lastop

/-- A host access that is a soft reset: a legal write to CTRL with bit 0 set (44_system.md R192). -/
def isSoftReset : Access → Bool
  | .read _ _ => false
  | .write off n v => accessLegal off n && regAt off == .ctrl && v.getLsbD 0

/-- A scheduled step that neither resets the block nor is refused: no reset, no soft reset, no second master. -/
def Event.leavesCommand : Event → Bool
  | .access a => !isSoftReset a
  | .wait _ => true
  | .engine => true
  | .reset => false
  | .resetOverlap _ _ => false
  | .otherMaster _ => false

/-- How many steps a schedule can take before a pending command has completed: one for each entry, and one for each poll
a `wait` loop may still make (log 5). -/
def scheduleLength : List Event → Nat
  | [] => 1
  | .wait k :: rest => k + 1 + scheduleLength rest
  | _ :: rest => 1 + scheduleLength rest

end Sys2Proof.Machine
end

