-- ==== Sys2Proof/Certificates/Slice0/Obligations.lean ====
section
/-! DEFINITION. The statements for the provers, each a `def Obligations.<Name> : Prop`, and the vocabulary they share
(namespace `Sys2Proof.Claims`), which is written from the spec's rules and not from the machine's own operations
wherever that is possible. -/

namespace Sys2Proof.Claims

open Sys2Proof.Machine

/-! ### Completion -/

/-- A successful completion over the block `b`: "it sets `done = 1`, `err = 0` and `errcode = 0`" (40_sha1.md section 2,
60_exceptions.md R201; log 6). Nothing else of the state changes. -/
def finished (s : State) (b : Block) : State :=
  { s with toBlock := { b with busy := false, pending := 0, done := true, err := false, errcode := 0 } }

/-- A completion with an error code over the block `b` (60_exceptions.md R201, R202). -/
def failed (s : State) (code : Byte) (b : Block) : State :=
  { s with toBlock := { b with busy := false, pending := 0, done := true, err := true, errcode := code } }

/-- A pending word of this opcode with a 1 among its reserved or unused bits completes with RESERVED_BITS (30_encoding.md
R86, R87), over the block `effect` makes (60_exceptions.md R205). -/
def RefusesReservedBits (op reserved : Word) (effect : Block → Block) : Prop :=
  ∀ s : State, s.pending &&& 0xFF = op → s.pending &&& reserved ≠ 0 →
    engineStep s = .next (failed s 2 (effect s.toBlock))

/-- An out buffer that holds `d` and zeros after it. -/
def HoldsThenZeros (o : Vector Byte 80) (d : List Byte) : Prop := o.toList = d ++ List.replicate (80 - d.length) 0

/-! ### Validation of a raw word (60_exceptions.md R204) -/

/-- The 18 opcodes (30_encoding.md R85). -/
def opcodes : List Nat :=
  [0x01, 0x02, 0x03, 0x04, 0x10, 0x11, 0x12, 0x13, 0x14, 0x15, 0x16, 0x17, 0x18, 0x20, 0x30, 0x31, 0x32, 0x3F]

/-- The opcodes that use LEN (30_encoding.md R85). -/
def lenUsers : List Nat := [0x02, 0x04, 0x11, 0x12, 0x15, 0x17, 0x20, 0x31, 0x32]

/-- `v[7:0]`. -/
def wordOp (v : Word) : Nat := v.toNat % 256
/-- `v[14:8]`. -/
def wordLen (v : Word) : Nat := v.toNat / 256 % 128
/-- `v[15]`. -/
def wordRsv0 (v : Word) : Nat := v.toNat / 32768 % 2
/-- `v[22:16]`. -/
def wordDklen (v : Word) : Nat := v.toNat / 65536 % 128
/-- `v[31:23]`. -/
def wordRsv1 (v : Word) : Nat := v.toNat / 8388608

/-- Check 2 of R204 fails. -/
def reservedWord (v : Word) : Bool :=
  wordRsv0 v ≠ 0 ∨ wordRsv1 v ≠ 0 ∨ (wordLen v ≠ 0 ∧ wordOp v ∉ lenUsers) ∨ (wordDklen v ≠ 0 ∧ wordOp v ≠ 0x20)

/-- `validate(v, S)`: the code of the first failing check, 0 where none fails (60_exceptions.md R203, R204). -/
def validate (v : Word) (b : Block) : Nat :=
  if wordOp v ∉ opcodes then 1
  else if reservedWord v then 2
  else if wordOp v ∈ lenUsers ∧ 64 < wordLen v then 3
  else if wordOp v = 0x20 ∧ (wordDklen v = 0 ∨ 80 < wordDklen v) then 4
  else if wordOp v = 0x20 ∧ b.iter = 0 then 5
  else if wordOp v ∈ [0x14, 0x17, 0x20] ∧ b.key.kmode ≠ .ready then 6
  else if (wordOp v ∈ [0x02, 0x03] ∧ b.ctx.mode ≠ .sha) ∨ (wordOp v ∈ [0x15, 0x16] ∧ b.ctx.mode ≠ .hmac)
      ∨ (wordOp v = 0x10 ∧ b.ctx.mode = .hmac) ∨ (wordOp v ∈ [0x11, 0x12, 0x13] ∧ b.key.kmode ≠ .loading)
      ∨ (wordOp v = 0x20 ∧ b.ctx.mode ≠ .idle) then 7
  else if (wordOp v ∈ [0x02, 0x15] ∧ 2 ^ 61 - 1 < b.ctx.len + wordLen v)
      ∨ (wordOp v ∈ [0x11, 0x12] ∧ 2 ^ 61 - 1 < klen b.key.kacc + wordLen v) then 8
  else 0

/-! ### Host accesses -/

/-- A 32-bit read at `off` answers `v` and changes nothing of the block. -/
def Reads (s : State) (off : Offset) (v : Word) : Prop :=
  ∀ rest, step { s with agenda := .access (.read off 4) :: rest }
    = .next { s with agenda := rest, replies := .value v :: s.replies }

/-- A 32-bit write of `v` at `off` is taken and leaves the block `b`. -/
def Writes (s : State) (off : Offset) (v : Word) (b : Block) : Prop :=
  ∀ rest, step { s with agenda := .access (.write off 4 v) :: rest }
    = .next { s with toBlock := b, agenda := rest, replies := .written :: s.replies }

/-- The offsets of the read-only registers (10_state.md R40): ID, VERSION, CRC, MSGLEN_LO, MSGLEN_HI and OUT. -/
def readOnlyOffset (off : Offset) : Bool :=
  off.toNat ∈ [0x00, 0x04, 0x18, 0x1C, 0x20] || (0x80 ≤ off.toNat && off.toNat ≤ 0xCC)

/-- The reserved offsets (10_state.md R40). -/
def reservedOffset (off : Offset) : Bool :=
  (0x24 ≤ off.toNat && off.toNat ≤ 0x3C) || (0xD0 ≤ off.toNat && off.toNat ≤ 0xFC)

/-! ### The functions, said another way -/

/-- The chaining value after all whole 64-byte blocks of `m` (the Merkle–Damgård construction, 00_scope.md R2). -/
def chainBlocks (h : Chain) (m : List Byte) : Chain :=
  (List.range (m.length / 64)).foldl (fun h i => compress h ((m.drop (64 * i)).take 64)) h

/-- A context after at most 64 more bytes: at most one compression (40_sha1.md R121). -/
def absorbedOnce (c : Ctx) (m : List Byte) : Ctx :=
  if c.blk.length + m.length < 64 then { c with blk := c.blk ++ m, len := c.len + m.length }
  else { c with h := compress c.h ((c.blk ++ m).take 64), blk := (c.blk ++ m).drop 64, len := c.len + m.length }

/-- One bit of a message through the CRC register, the bit-serial form of 43_crc16.md R170. -/
def crcSerialBit (c : Word16) (b : Bool) : Word16 :=
  if c.getLsbD 0 != b then (c >>> 1) ^^^ 0x8408 else c >>> 1

/-- The bit-serial CRC: the bits of each byte, least significant first (20_memory.md R54, 43_crc16.md R170). -/
def crcSerial (c : Word16) (m : List Byte) : Word16 :=
  m.foldl (fun c b => (List.range 8).foldl (fun c i => crcSerialBit c (b.getLsbD i)) c) c

/-- `U_{j+1}` of a PBKDF2 block (42_pbkdf2.md R161). -/
def pbkdf2U (iks oks : Chain) (salt : List Byte) (i : Nat) : Nat → List Byte
  | 0 => hmacK iks oks (salt ++ be32 (BitVec.ofNat 32 i))
  | j + 1 => hmacK iks oks (pbkdf2U iks oks salt i j)

/-- `T_i`: the XOR of `U_1` to `U_c` (00_scope.md R13, 42_pbkdf2.md R161). -/
def pbkdf2T (iks oks : Chain) (salt : List Byte) (c i : Nat) : List Byte :=
  (List.range c).foldl (fun t j => xorBytes t (pbkdf2U iks oks salt i j)) (List.replicate 20 0)

/-- The accumulator that holds the key bytes `k` (10_state.md R27). -/
def accumulated (k : List Byte) : KAcc := if k.length ≤ 64 then .short k else .long (absorb ctxSha0 k)

/-- The key state of a loaded key `k` (41_hmac.md R144, R149). -/
def readyKey (k : List Byte) : Key :=
  { kmode := .ready, iks := innerKey (paddedKey k), oks := outerKey (paddedKey k), kacc := .short [] }

/-! ### Sequences of commands -/

/-- One answer after another. -/
def andThen (a : Answer) (f : State → Answer) : Answer :=
  match a with
  | .next s => f s
  | .fault r => .fault r
  | .refused r => .refused r

/-- A piece of a message: what the host left in `inbuf`, and the LEN it passes. -/
abbrev Piece := Vector Byte 64 × Count

/-- The bytes of a piece. -/
def Piece.bytes (p : Piece) : List Byte := p.1.toList.take p.2.toNat

/-- The whole message of a list of pieces. -/
def message (ps : List Piece) : List Byte := ps.flatMap Piece.bytes

/-- One command per piece, each on the `inbuf` the piece names. -/
def feed (mk : Count → Instr) : List Piece → State → Answer
  | [], s => .next s
  | p :: ps, s => andThen (exec (mk p.2) { s with inbuf := p.1 }) (feed mk ps)

/-- A piece of a key: from `inbuf` by HMAC_KEY_ABSORB, or from `out` by HMAC_KEY_ABSORB_OUT. -/
inductive KeyPiece where
  | fromIn (buf : Vector Byte 64) (n : Count)
  | fromOut (buf : Vector Byte 80) (n : Count)

/-- The LEN of a key piece. -/
def KeyPiece.count : KeyPiece → Count
  | .fromIn _ n => n
  | .fromOut _ n => n

/-- The bytes of a key piece. -/
def KeyPiece.bytes : KeyPiece → List Byte
  | .fromIn buf n => buf.toList.take n.toNat
  | .fromOut buf n => buf.toList.take n.toNat

/-- The whole key of a list of pieces. -/
def keyOf (ps : List KeyPiece) : List Byte := ps.flatMap KeyPiece.bytes

/-- The absorbs of a key, one command per piece. -/
def feedKey : List KeyPiece → State → Answer
  | [], s => .next s
  | .fromIn buf n :: ps, s => andThen (exec (.hmacKeyAbsorb n) { s with inbuf := buf }) (feedKey ps)
  | .fromOut buf n :: ps, s => andThen (exec (.hmacKeyAbsorbOut n) { s with out := buf }) (feedKey ps)

end Sys2Proof.Claims

open Sys2Proof Sys2Proof.Machine Sys2Proof.Claims

/-! ### Encoding -/

/-- Every command, with every value its fields hold, is what the decoder reads from its own word. -/
def Obligations.DecodeReadsEncodedCommand : Prop := ∀ i : Instr, decode (encode i) = .ok i

/-- No bit of a word that decodes is dropped: the encoder rebuilds it. -/
def Obligations.EncodeRebuildsDecodedWord : Prop := ∀ (w : Word) (i : Instr), decode w = .ok i → encode i = w

/-- 30_encoding.md R86: the well-formed words are those that fail none of the four checks, and they match the table's
masks. -/
def Obligations.WellFormedWordsFailNoCheck : Prop :=
  (∀ w : Word, (∃ i, decode w = .ok i ∧ i.wellFormed = true) ↔
    wordOp w ∈ opcodes ∧ reservedWord w = false ∧ (wordOp w ∈ lenUsers → wordLen w ≤ 64) ∧
    (wordOp w = 0x20 → 1 ≤ wordDklen w ∧ wordDklen w ≤ 80)) ∧
  ∀ (w : Word) (i : Instr), decode w = .ok i →
    (if i.opcode = .pbkdf2 then w &&& 0xFF8080FF = i.opcode.byte.setWidth 32
     else if i.opcode.usesLen then w &&& 0xFFFF80FF = i.opcode.byte.setWidth 32
     else w = i.opcode.byte.setWidth 32)

/-- 30_encoding.md R87: the illegal opcodes complete with ILLEGAL_OPCODE and have no other effect; a 1 in a reserved bit
of a legal opcode's word gives RESERVED_BITS. -/
def Obligations.IllegalAndReservedWordsFail : Prop :=
  (∀ s : State,
    (let op := wordOp s.pending
     op = 0x00 ∨ (0x05 ≤ op ∧ op ≤ 0x0F) ∨ (0x19 ≤ op ∧ op ≤ 0x1F) ∨ (0x21 ≤ op ∧ op ≤ 0x2F)
      ∨ (0x33 ≤ op ∧ op ≤ 0x3E) ∨ 0x40 ≤ op) →
    engineStep s = .next (failed s 1 s.toBlock)) ∧
  (∀ s : State, wordOp s.pending ∈ opcodes → wordRsv0 s.pending ≠ 0 ∨ wordRsv1 s.pending ≠ 0 →
    ∃ t, engineStep s = .next t ∧ t.err = true ∧ t.errcode = 2)

/-- A few words written out from the encoding table decode to the commands they stand for. -/
def Obligations.WrittenWordsDecode : Prop :=
  decode 0x00000304 = .ok (.sha1Oneshot 3) ∧ decode 0x00001012 = .ok (.hmacKeyAbsorbOut 16) ∧
  decode 0x00140420 = .ok (.pbkdf2 4 20) ∧ decode 0x00003231 = .ok (.crcUpdate 50) ∧
  decode 0x0000003F = .ok .zeroize ∧ decode 0x00000000 = .error .illegalOpcode ∧
  decode 0x00008004 = .error (.reservedBits .sha1Oneshot)

/-- 30_encoding.md R89: a word the assembler emits decodes to a well-formed command of its mnemonic, with the counts it
was given. -/
def Obligations.AssembledCommandsAreWellFormed : Prop :=
  ∀ (op : Opcode) (n d : Option Nat) (w : Word), assembleCmd op n d = some w →
    ∃ i, decode w = .ok i ∧ i.wellFormed = true ∧ i.opcode = op ∧ i.len.toNat = n.getD 0 ∧ i.dklen.toNat = d.getD 0

/-! ### The step and the completion -/

/-- The engine's turn, with the pending word decoding to a command, is that command's run (60_exceptions.md R201): when the
agenda is empty, when the agenda says the engine, and for the word `withFetchWord` places. The agenda and `withFetchWord`
are the model's own (log 1, log 3). -/
def Obligations.StepRunsDecodedCommand : Prop :=
  (∀ (s : State) (i : Instr), s.busy = true → s.agenda = [] → decode s.pending = .ok i → step s = exec i s) ∧
  (∀ (s : State) (i : Instr) (rest : List Event), s.busy = true → s.agenda = .engine :: rest →
    decode s.pending = .ok i → step s = exec i { s with agenda := rest }) ∧
  (∀ (s : State) (i : Instr) (w : Word), decode w = .ok i →
    step (s.withFetchWord 32 w.toNat) = exec i (s.withFetchWord 32 w.toNat))

/-- 60_exceptions.md R204: every pending word, legal or not, completes, and the code it leaves is that of the first
failing check in the order of R204 on the state at completion. -/
def Obligations.CompletionReportsFirstFailingCheck : Prop :=
  ∀ (s : State) (rest : List Event), s.busy = true → s.agenda = .engine :: rest →
    ∃ t, step s = .next t ∧ t.errcode.toNat = validate s.pending s.toBlock ∧
      (t.err = true ↔ validate s.pending s.toBlock ≠ 0) ∧ t.busy = false ∧ t.pending = 0 ∧ t.done = true

/-- 60_exceptions.md R205: a command that fails changes nothing but the status fields, and the buffer that a key absorb
zeroes on every outcome. -/
def Obligations.FailedCommandChangesOnlyStatus : Prop :=
  ∀ s : State, validate s.pending s.toBlock ≠ 0 →
    engineStep s = .next (failed s (BitVec.ofNat 8 (validate s.pending s.toBlock))
      { s.toBlock with
        inbuf := if wordOp s.pending = 0x11 then Vector.replicate 64 0 else s.inbuf
        out := if wordOp s.pending = 0x12 then Vector.replicate 80 0 else s.out })

/-- 10_state.md R45: reset establishes the nine invariants, and every step of every agent preserves them. -/
def Obligations.StepKeepsBlockInvariants : Prop :=
  Block.reset.Inv ∧ ∀ s t : State, s.toBlock.Inv → step s = .next t → t.toBlock.Inv

/-- The nine invariants of 10_state.md R45 hold at the state after reset, and so do the three facts of log 16, which are
the model's own reading. -/
def Obligations.ResetMeetsBlockInvariants : Prop := State.reset.toBlock.Inv ∧ State.reset.toBlock.InvMore

/-- Three further facts, the model's own reading of the spec (log 16), are kept by every step. -/
def Obligations.StepKeepsCompletionInvariants : Prop :=
  ∀ s t : State, s.toBlock.Inv → s.toBlock.InvMore → step s = .next t → t.toBlock.InvMore

/-! ### The register window -/

/-- 10_state.md R31: ID and VERSION read their constants, and writes to them are ignored. -/
def Obligations.IdentificationRegistersAreConstant : Prop :=
  ∀ s : State, Reads s 0x00 0x53484131 ∧ Reads s 0x04 0x00000001 ∧
    ∀ v, Writes s 0x00 v s.toBlock ∧ Writes s 0x04 v s.toBlock

/-- 10_state.md R32: CTRL reads IRQ_EN in bit 1; a write with bit 0 clear sets `irq_en`, one with bit 0 set is the soft
reset; busy or not. -/
def Obligations.CtrlRegisterEnablesOrResets : Prop :=
  ∀ s : State, Reads s 0x08 (if s.irqEn then 2 else 0) ∧
    ∀ v : Word, (v.getLsbD 0 = false → Writes s 0x08 v { s.toBlock with irqEn := v.getLsbD 1 }) ∧
      (v.getLsbD 0 = true → Writes s 0x08 v Block.reset)

/-- 10_state.md R33: every field of STATUS, what a write clears, and the reset value. -/
def Obligations.StatusRegisterShowsAndClearsFlags : Prop :=
  (∀ s : State, ∃ v : Word, Reads s 0x0C v ∧ v.getLsbD 0 = s.busy ∧ v.getLsbD 1 = s.done ∧ v.getLsbD 2 = s.err ∧
    v.getLsbD 3 = s.wdrop ∧ v.getLsbD 4 = decide (s.key.kmode = .ready) ∧
    v.getLsbD 5 = decide (s.key.kmode = .loading) ∧
    v.extractLsb' 6 2 = (match s.ctx.mode with | .idle => 0 | .sha => 1 | .hmac => 2) ∧
    v.extractLsb' 8 8 = s.errcode ∧ v.extractLsb' 16 8 = s.lastop ∧ v.extractLsb' 24 8 = 0) ∧
  (∀ (s : State) (v : Word), Writes s 0x0C v
    { s.toBlock with
      done := if v.getLsbD 1 then false else s.done
      err := if v.getLsbD 2 then false else s.err
      errcode := if v.getLsbD 2 then 0 else s.errcode
      wdrop := if v.getLsbD 3 then false else s.wdrop }) ∧
  Reads State.reset 0x0C 0

/-- 10_state.md R34 and 60_exceptions.md R200: CMD reads 0; a write while idle issues the word, one while busy is
dropped. -/
def Obligations.CmdRegisterIssues : Prop :=
  ∀ s : State, Reads s 0x10 0 ∧ ∀ v : Word,
    (s.busy = false → Writes s 0x10 v
      { s.toBlock with busy := true, pending := v, done := false, err := false, errcode := 0,
                       lastop := v.extractLsb' 0 8 }) ∧
    (s.busy = true → Writes s 0x10 v { s.toBlock with wdrop := true })

/-- 10_state.md R35: ITER reads `iter`, a write sets it while idle and is dropped while busy; its reset value is 0. -/
def Obligations.IterRegisterHoldsCount : Prop :=
  (∀ s : State, Reads s 0x14 s.iter ∧ ∀ v : Word,
    (s.busy = false → Writes s 0x14 v { s.toBlock with iter := v }) ∧
    (s.busy = true → Writes s 0x14 v { s.toBlock with wdrop := true })) ∧
  Reads State.reset 0x14 0

/-- 10_state.md R36: CRC reads the running value low and its one's complement high, 0 while busy, and is read-only. -/
def Obligations.CrcRegisterShowsBothForms : Prop :=
  (∀ s : State, (s.busy = false → ∃ v : Word, Reads s 0x18 v ∧ v.extractLsb' 0 16 = s.crc ∧
      v.extractLsb' 16 16 = ~~~s.crc) ∧
    (s.busy = true → Reads s 0x18 0) ∧ ∀ v, Writes s 0x18 v s.toBlock) ∧
  Reads State.reset 0x18 0x0000FFFF

/-- 10_state.md R37: the two MSGLEN registers read the two halves of the byte count, or 0 while Idle and while busy. -/
def Obligations.MsglenRegistersShowByteCount : Prop :=
  (∀ s : State,
    (s.busy = false → s.ctx.mode ≠ .idle → ∃ lo hi : Word, Reads s 0x1C lo ∧ Reads s 0x20 hi ∧
      lo.toNat = s.ctx.len % 2 ^ 32 ∧ hi.toNat = s.ctx.len / 2 ^ 32 % 2 ^ 32) ∧
    (s.busy = true ∨ s.ctx.mode = .idle → Reads s 0x1C 0 ∧ Reads s 0x20 0) ∧
    ∀ v, Writes s 0x1C v s.toBlock ∧ Writes s 0x20 v s.toBlock) ∧
  Reads State.reset 0x1C 0 ∧ Reads State.reset 0x20 0

/-- 10_state.md R38: INBUF[w] reads and writes `inbuf[4w..4w+4)` in little-endian lanes while idle; while busy it reads 0
and drops writes. -/
def Obligations.InbufRegistersReadAndWriteLanes : Prop :=
  (∀ (s : State) (w : Fin 16) (off : Offset), off.toNat = 0x40 + 4 * w.val →
    (s.busy = false →
      (∃ v : Word, Reads s off v ∧ ∀ j < 4, v.extractLsb' (8 * j) 8 = s.inbuf.toList.getD (4 * w.val + j) 0) ∧
      ∀ v : Word, ∃ buf : Vector Byte 64, Writes s off v { s.toBlock with inbuf := buf } ∧
        ∀ k < 64, buf.toList.getD k 0 =
          if k / 4 = w.val then v.extractLsb' (8 * (k % 4)) 8 else s.inbuf.toList.getD k 0) ∧
    (s.busy = true → Reads s off 0 ∧ ∀ v, Writes s off v { s.toBlock with wdrop := true })) ∧
  ∀ (w : Fin 16) (off : Offset), off.toNat = 0x40 + 4 * w.val → Reads State.reset off 0

/-- 10_state.md R39: OUT[w] reads `out[4w..4w+4)` in little-endian lanes, 0 while busy; writes are ignored and set no
flag. -/
def Obligations.OutRegistersReadLanes : Prop :=
  (∀ (s : State) (w : Fin 20) (off : Offset), off.toNat = 0x80 + 4 * w.val →
    (s.busy = false →
      ∃ v : Word, Reads s off v ∧ ∀ j < 4, v.extractLsb' (8 * j) 8 = s.out.toList.getD (4 * w.val + j) 0) ∧
    (s.busy = true → Reads s off 0) ∧ ∀ v, Writes s off v s.toBlock) ∧
  ∀ (w : Fin 20) (off : Offset), off.toNat = 0x80 + 4 * w.val → Reads State.reset off 0

/-- 20_memory.md R59: reserved offsets read as zero, and writes to them and to the read-only registers change nothing,
busy or not. -/
def Obligations.ReservedAndReadOnlyWritesIgnored : Prop :=
  ∀ (s : State) (off : Offset), off.toNat % 4 = 0 →
    (reservedOffset off = true → Reads s off 0 ∧ ∀ v, Writes s off v s.toBlock) ∧
    (readOnlyOffset off = true → ∀ v, Writes s off v s.toBlock)

/-- 20_memory.md R56: an access of another width or at another offset gets the bus error and changes nothing of the
block. -/
def Obligations.IllegalAccessGetsBusError : Prop :=
  ∀ (s : State) (off : Offset) (n : Nat) (rest : List Event), n ≠ 4 ∨ off.toNat % 4 ≠ 0 →
    step { s with agenda := .access (.read off n) :: rest }
      = .next { s with agenda := rest, replies := .busError off :: s.replies } ∧
    ∀ v, step { s with agenda := .access (.write off n v) :: rest }
      = .next { s with agenda := rest, replies := .busError off :: s.replies }

/-! ### Reset, interrupt, and the agents -/

/-- 10_state.md R44 and 70_reset_and_hazards.md R220: the reset input and the soft reset leave every field at its reset
value, from any state, a pending command abandoned; so does a reset that overlaps an access, whether or not that is
performed (R221). -/
def Obligations.ResetTakesResetValues : Prop :=
  ∀ (s : State) (rest : List Event) (e : Event),
    (e = .reset ∨ (∃ a p, e = .resetOverlap a p) ∨ ∃ v : Word, v.getLsbD 0 = true ∧ e = .access (.write 0x08 4 v)) →
    ∃ t, step { s with agenda := e :: rest } = .next t ∧ t.agenda = rest ∧
      t.inbuf.toList = List.replicate 64 0 ∧ t.out.toList = List.replicate 80 0 ∧
      t.ctx = ⟨.idle, ⟨0, 0, 0, 0, 0⟩, [], 0⟩ ∧
      t.key = ⟨.none, ⟨0, 0, 0, 0, 0⟩, ⟨0, 0, 0, 0, 0⟩, .short []⟩ ∧
      t.crc = 0xFFFF ∧ t.iter = 0 ∧ t.irqEn = false ∧ t.busy = false ∧ t.pending = 0 ∧ t.done = false ∧
      t.err = false ∧ t.wdrop = false ∧ t.errcode = 0 ∧ t.lastop = 0 ∧ t.toBlock.irq = false

/-- 44_system.md R192: a write of 1 to CTRL bit 0, busy or not and whatever its other bits, leaves the block exactly as
the reset input does. -/
def Obligations.SoftResetEqualsResetInput : Prop :=
  ∀ (s : State) (v : Word) (rest : List Event), v.getLsbD 0 = true →
    ∃ t u, step { s with agenda := .access (.write 0x08 4 v) :: rest } = .next t ∧
      step { s with agenda := .reset :: rest } = .next u ∧ t.toBlock = u.toBlock ∧ t.busy = false ∧
      t.done = false ∧ t.irqEn = false

/-- 10_state.md R43: `irq` is `irq_en and done`: a completion asserts it exactly when enabled, and the acknowledge, the
next issue, a reset and clearing the enable deassert it. -/
def Obligations.IrqFollowsCompletion : Prop :=
  (∀ s : State, s.toBlock.irq = (s.irqEn && s.done)) ∧
  (∀ (s t : State), engineStep s = .next t → t.toBlock.irq = s.irqEn) ∧
  (∀ (s t : State) (v : Word) (rest : List Event), v.getLsbD 1 = true →
    step { s with agenda := .access (.write 0x0C 4 v) :: rest } = .next t → t.toBlock.irq = false) ∧
  (∀ (s t : State) (v : Word) (rest : List Event), s.busy = false →
    step { s with agenda := .access (.write 0x10 4 v) :: rest } = .next t → t.toBlock.irq = false) ∧
  (∀ (s t : State) (rest : List Event), step { s with agenda := .reset :: rest } = .next t →
    t.toBlock.irq = false) ∧
  (∀ (s t : State) (v : Word) (rest : List Event), v.getLsbD 1 = false →
    step { s with agenda := .access (.write 0x08 4 v) :: rest } = .next t → t.toBlock.irq = false)

/-- 60_exceptions.md R215: an access by a second bus master is refused, from every state. -/
def Obligations.SecondMasterIsRefused : Prop :=
  ∀ (s : State) (a : Access) (rest : List Event),
    step { s with agenda := .otherMaster a :: rest } = .refused .secondMaster

/-- 60_exceptions.md R217: with `busy = 0` and no host access or reset to come, all state is held; a step with nothing to
do, and a scheduled engine step while idle, are the model's choice (log 4). -/
def Obligations.IdleBlockHoldsState : Prop :=
  ∀ s : State, s.busy = false → (s.agenda = [] → step s = .next s) ∧
    ∀ rest, s.agenda = .engine :: rest → step s = .next { s with agenda := rest }

/-- 20_memory.md R65: between its issue and its completion no host access but a soft reset changes what a command
reads. -/
def Obligations.PendingOperandsStayFixed : Prop :=
  ∀ (s t : State) (a : Access) (rest : List Event), s.busy = true → isSoftReset a = false →
    step { s with agenda := .access a :: rest } = .next t →
    t.busy = true ∧ t.pending = s.pending ∧ t.inbuf = s.inbuf ∧ t.iter = s.iter ∧ t.out = s.out ∧ t.ctx = s.ctx ∧
      t.key = s.key ∧ t.crc = s.crc

/-- 70_reset_and_hazards.md R234: a pending command completes, unless a reset comes first; that it does so within the
length of the schedule rests on the model's scheduling (log 1, log 5). -/
def Obligations.PendingCommandCompletes : Prop :=
  ∀ s : State, s.busy = true → (∀ e ∈ s.agenda, e.leavesCommand = true) →
    ∃ (k : Nat) (t : State), k ≤ scheduleLength s.agenda ∧ Host.Core.run core k s = .next t ∧
      t.busy = false ∧ t.done = true

/-- 10_state.md R41 and 60_exceptions.md R212: two blocks that differ only in hidden state answer every host access alike,
and still differ only in hidden state after it. -/
def Obligations.RegistersHideSecrets : Prop :=
  ∀ (a b : Block) (acc : Access), a.SameVisible b →
    (a.access acc).1 = (b.access acc).1 ∧ (a.access acc).2.SameVisible (b.access acc).2

/-- 10_state.md R26 and 70_reset_and_hazards.md R231: of all commands only HMAC_KEY_BEGIN, KEY_CLEAR and ZEROIZE change a
Ready key. -/
def Obligations.ReadyKeyLifetime : Prop :=
  ∀ (i : Instr) (s t : State), s.key.kmode = .ready → exec i s = .next t →
    i ≠ .hmacKeyBegin → i ≠ .keyClear → i ≠ .zeroize → t.key = s.key

/-! ### SHA-1 -/

/-- 40_sha1.md R112: the schedule's 80 words. -/
def Obligations.ScheduleFollowsRecurrence : Prop :=
  ∀ blk : List Byte, (schedule blk).length = 80 ∧
    (∀ t < 16, (schedule blk).getD t 0 =
      (blk.getD (4 * t) 0).setWidth 32 <<< 24 ||| (blk.getD (4 * t + 1) 0).setWidth 32 <<< 16
        ||| (blk.getD (4 * t + 2) 0).setWidth 32 <<< 8 ||| (blk.getD (4 * t + 3) 0).setWidth 32) ∧
    ∀ t, 16 ≤ t → t < 80 → (schedule blk).getD t 0 =
      BitVec.rotateLeft ((schedule blk).getD (t - 3) 0 ^^^ (schedule blk).getD (t - 8) 0
        ^^^ (schedule blk).getD (t - 14) 0 ^^^ (schedule blk).getD (t - 16) 0) 1

/-- The one-shot function is the Merkle–Damgård construction over the padded message: whole 64-byte blocks, the padding
byte, zeros, and the big-endian bit count (00_scope.md R2, 40_sha1.md R114-R117). -/
def Obligations.Sha1IsMerkleDamgard : Prop :=
  ∀ m : List Byte, m.length ≤ 2 ^ 61 - 1 →
    let padded := m ++ (0x80 :: (List.replicate ((119 - m.length % 64) % 64) 0
      ++ be64 (BitVec.ofNat 64 (8 * m.length))))
    padded.length % 64 = 0 ∧ sha1 m = digest (chainBlocks hInit padded)

/-- 40_sha1.md R115: the padding ends on a block boundary, and takes one compression when the partial block holds at most
55 bytes and two when it holds more. -/
def Obligations.FinalizePadsToBlockBoundary : Prop :=
  ∀ c : Ctx, c.blk.length < 64 →
    ∃ z : Nat, (z : Int) = (55 - (c.blk.length : Int)) % 64 ∧
      let p := 0x80 :: (List.replicate z 0 ++ be64 (BitVec.ofNat 64 (8 * c.len % 2 ^ 64)))
      (absorb c p).blk = [] ∧ finalize c = digest (absorb c p).h ∧
      (c.blk.length ≤ 55 → (absorb c p).h = compress c.h (c.blk ++ p)) ∧
      (56 ≤ c.blk.length →
        (absorb c p).h = compress (compress c.h ((c.blk ++ p).take 64)) ((c.blk ++ p).drop 64))

/-- 40_sha1.md R120: SHA1_INIT starts an empty message in every state, and its word has no field. -/
def Obligations.Sha1InitStartsMessage : Prop :=
  (∀ s : State, exec .sha1Init s = .next (finished s { s.toBlock with
    ctx := ⟨.sha, ⟨0x67452301, 0xEFCDAB89, 0x98BADCFE, 0x10325476, 0xC3D2E1F0⟩, [], 0⟩ })) ∧
  RefusesReservedBits 0x01 0xFFFFFF00 id

/-- 40_sha1.md R121: SHA1_UPDATE absorbs `inbuf[0..n)`, with at most one compression; its errors in their order. -/
def Obligations.Sha1UpdateAbsorbs : Prop :=
  (∀ (s : State) (n : Count),
    (n.toNat ≤ 64 → s.ctx.mode = .sha → s.ctx.blk.length < 64 → s.ctx.len + n.toNat ≤ 2 ^ 61 - 1 →
      exec (.sha1Update n) s = .next (finished s { s.toBlock with
        ctx := absorbedOnce s.ctx (s.inbuf.toList.take n.toNat) })) ∧
    (64 < n.toNat → exec (.sha1Update n) s = .next (failed s 3 s.toBlock)) ∧
    (n.toNat ≤ 64 → s.ctx.mode ≠ .sha → exec (.sha1Update n) s = .next (failed s 7 s.toBlock)) ∧
    (n.toNat ≤ 64 → s.ctx.mode = .sha → 2 ^ 61 - 1 < s.ctx.len + n.toNat →
      exec (.sha1Update n) s = .next (failed s 8 s.toBlock))) ∧
  RefusesReservedBits 0x02 0xFFFF8000 id

/-- 40_sha1.md R122: SHA1_FINAL outputs the digest, zeroes the rest of `out` and zeroizes the context. -/
def Obligations.Sha1FinalOutputsDigest : Prop :=
  (∀ s : State,
    (s.ctx.mode = .sha → ∃ o, HoldsThenZeros o (finalize s.ctx) ∧
      exec .sha1Final s = .next (finished s { s.toBlock with out := o, ctx := Ctx.idle0 })) ∧
    (s.ctx.mode ≠ .sha → exec .sha1Final s = .next (failed s 7 s.toBlock))) ∧
  RefusesReservedBits 0x03 0xFFFFFF00 id

/-- 40_sha1.md R123: SHA1_ONESHOT outputs `sha1(inbuf[0..n))` and zeroizes the context, in any context mode. -/
def Obligations.Sha1OneshotOutputsDigest : Prop :=
  (∀ (s : State) (n : Count),
    (n.toNat ≤ 64 → ∃ o, HoldsThenZeros o (sha1 (s.inbuf.toList.take n.toNat)) ∧
      exec (.sha1Oneshot n) s = .next (finished s { s.toBlock with out := o, ctx := Ctx.idle0 })) ∧
    (64 < n.toNat → exec (.sha1Oneshot n) s = .next (failed s 3 s.toBlock))) ∧
  RefusesReservedBits 0x04 0xFFFF8000 id

/-- 40_sha1.md R124: INIT, one UPDATE per piece, FINAL leave the digest of the whole message, for every split; ONESHOT
leaves the same. -/
def Obligations.Sha1SplittingKeepsDigest : Prop :=
  (∀ (s : State) (ps : List Piece), (∀ p ∈ ps, p.2.toNat ≤ 64) → (message ps).length ≤ 2 ^ 61 - 1 →
    ∃ t, andThen (andThen (exec .sha1Init s) (feed .sha1Update ps)) (exec .sha1Final) = .next t ∧
      t.err = false ∧ t.out.toList.take 20 = sha1 (message ps)) ∧
  ∀ (s : State) (n : Count), n.toNat ≤ 64 → ∃ t, exec (.sha1Oneshot n) s = .next t ∧
    t.out.toList.take 20 = sha1 (s.inbuf.toList.take n.toNat)

/-! ### HMAC-SHA1 -/

/-- 41_hmac.md R146: HMAC_KEY_BEGIN starts an empty key, except while an HMAC message is in progress. -/
def Obligations.HmacKeyBeginStartsEmptyKey : Prop :=
  (∀ s : State,
    (s.ctx.mode ≠ .hmac → exec .hmacKeyBegin s = .next (finished s { s.toBlock with
      key := ⟨.loading, ⟨0, 0, 0, 0, 0⟩, ⟨0, 0, 0, 0, 0⟩, .short []⟩ })) ∧
    (s.ctx.mode = .hmac → exec .hmacKeyBegin s = .next (failed s 7 s.toBlock))) ∧
  RefusesReservedBits 0x10 0xFFFFFF00 id

/-- 41_hmac.md R147: HMAC_KEY_ABSORB appends `inbuf[0..n)` to the key (R142) and zeroes `inbuf` on every outcome. -/
def Obligations.HmacKeyAbsorbAppends : Prop :=
  (∀ (s : State) (n : Count),
    let zeroed := { s.toBlock with inbuf := Vector.replicate 64 0 }
    let bytes := s.inbuf.toList.take n.toNat
    (n.toNat ≤ 64 → s.key.kmode = .loading → klen s.key.kacc + n.toNat ≤ 2 ^ 61 - 1 →
      exec (.hmacKeyAbsorb n) s = .next (finished s { zeroed with
        key := { s.key with kacc :=
          match s.key.kacc with
          | .short k => if k.length + bytes.length ≤ 64 then .short (k ++ bytes) else .long (absorb ctxSha0 (k ++ bytes))
          | .long c => .long (absorb c bytes) } })) ∧
    (64 < n.toNat → exec (.hmacKeyAbsorb n) s = .next (failed s 3 zeroed)) ∧
    (n.toNat ≤ 64 → s.key.kmode ≠ .loading → exec (.hmacKeyAbsorb n) s = .next (failed s 7 zeroed)) ∧
    (n.toNat ≤ 64 → s.key.kmode = .loading → 2 ^ 61 - 1 < klen s.key.kacc + n.toNat →
      exec (.hmacKeyAbsorb n) s = .next (failed s 8 zeroed))) ∧
  RefusesReservedBits 0x11 0xFFFF8000 (fun b => { b with inbuf := Vector.replicate 64 0 })

/-- 41_hmac.md R148: HMAC_KEY_ABSORB_OUT appends `out[0..n)` to the key (R142) and zeroes `out` on every outcome. -/
def Obligations.HmacKeyAbsorbOutAppends : Prop :=
  (∀ (s : State) (n : Count),
    let zeroed := { s.toBlock with out := Vector.replicate 80 0 }
    let bytes := s.out.toList.take n.toNat
    (n.toNat ≤ 64 → s.key.kmode = .loading → klen s.key.kacc + n.toNat ≤ 2 ^ 61 - 1 →
      exec (.hmacKeyAbsorbOut n) s = .next (finished s { zeroed with
        key := { s.key with kacc :=
          match s.key.kacc with
          | .short k => if k.length + bytes.length ≤ 64 then .short (k ++ bytes) else .long (absorb ctxSha0 (k ++ bytes))
          | .long c => .long (absorb c bytes) } })) ∧
    (64 < n.toNat → exec (.hmacKeyAbsorbOut n) s = .next (failed s 3 zeroed)) ∧
    (n.toNat ≤ 64 → s.key.kmode ≠ .loading → exec (.hmacKeyAbsorbOut n) s = .next (failed s 7 zeroed)) ∧
    (n.toNat ≤ 64 → s.key.kmode = .loading → 2 ^ 61 - 1 < klen s.key.kacc + n.toNat →
      exec (.hmacKeyAbsorbOut n) s = .next (failed s 8 zeroed))) ∧
  RefusesReservedBits 0x12 0xFFFF8000 (fun b => { b with out := Vector.replicate 80 0 })

/-- 41_hmac.md R149: HMAC_KEY_END precomputes the two key states of the padded key; for an accumulator that holds the key
bytes `k` the padded key is `K0(k)` (R143). -/
def Obligations.HmacKeyEndPrecomputesKeyState : Prop :=
  (∀ s : State,
    (s.key.kmode = .loading → exec .hmacKeyEnd s = .next (finished s { s.toBlock with
      key := ⟨.ready, compress hInit (xorBytes (kfinal s.key.kacc) (List.replicate 64 0x36)),
        compress hInit (xorBytes (kfinal s.key.kacc) (List.replicate 64 0x5C)), .short []⟩ })) ∧
    (s.key.kmode ≠ .loading → exec .hmacKeyEnd s = .next (failed s 7 s.toBlock))) ∧
  (∀ k : List Byte, kfinal (accumulated k) =
    if k.length ≤ 64 then k ++ List.replicate (64 - k.length) 0 else sha1 k ++ List.replicate 44 0) ∧
  RefusesReservedBits 0x13 0xFFFFFF00 id

/-- 41_hmac.md R150: HMAC_INIT starts a message under the loaded key, its count already 64; without one it gives
NO_KEY. -/
def Obligations.HmacInitStartsMessage : Prop :=
  (∀ s : State,
    (s.key.kmode = .ready →
      exec .hmacInit s = .next (finished s { s.toBlock with ctx := ⟨.hmac, s.key.iks, [], 64⟩ })) ∧
    (s.key.kmode ≠ .ready → exec .hmacInit s = .next (failed s 6 s.toBlock))) ∧
  RefusesReservedBits 0x14 0xFFFFFF00 id

/-- 41_hmac.md R151: HMAC_UPDATE absorbs `inbuf[0..n)`, with at most one compression; its errors in their order. -/
def Obligations.HmacUpdateAbsorbs : Prop :=
  (∀ (s : State) (n : Count),
    (n.toNat ≤ 64 → s.ctx.mode = .hmac → s.ctx.blk.length < 64 → s.ctx.len + n.toNat ≤ 2 ^ 61 - 1 →
      exec (.hmacUpdate n) s = .next (finished s { s.toBlock with
        ctx := absorbedOnce s.ctx (s.inbuf.toList.take n.toNat) })) ∧
    (64 < n.toNat → exec (.hmacUpdate n) s = .next (failed s 3 s.toBlock)) ∧
    (n.toNat ≤ 64 → s.ctx.mode ≠ .hmac → exec (.hmacUpdate n) s = .next (failed s 7 s.toBlock)) ∧
    (n.toNat ≤ 64 → s.ctx.mode = .hmac → 2 ^ 61 - 1 < s.ctx.len + n.toNat →
      exec (.hmacUpdate n) s = .next (failed s 8 s.toBlock))) ∧
  RefusesReservedBits 0x15 0xFFFF8000 id

/-- 41_hmac.md R152: HMAC_FINAL outputs the outer hash of the inner digest, zeroes the rest of `out`, zeroizes the context
and keeps the key. -/
def Obligations.HmacFinalOutputsTag : Prop :=
  (∀ s : State,
    (s.ctx.mode = .hmac → ∃ o,
      HoldsThenZeros o (finalize (absorb ⟨.hmac, s.key.oks, [], 64⟩ (finalize s.ctx))) ∧
      exec .hmacFinal s = .next (finished s { s.toBlock with out := o, ctx := Ctx.idle0 })) ∧
    (s.ctx.mode ≠ .hmac → exec .hmacFinal s = .next (failed s 7 s.toBlock))) ∧
  RefusesReservedBits 0x16 0xFFFFFF00 id

/-- 41_hmac.md R153: HMAC_ONESHOT outputs the tag of `inbuf[0..n)` under the loaded key and zeroizes the context. -/
def Obligations.HmacOneshotOutputsTag : Prop :=
  (∀ (s : State) (n : Count),
    (n.toNat ≤ 64 → s.key.kmode = .ready → ∃ o,
      HoldsThenZeros o (hmacK s.key.iks s.key.oks (s.inbuf.toList.take n.toNat)) ∧
      exec (.hmacOneshot n) s = .next (finished s { s.toBlock with out := o, ctx := Ctx.idle0 })) ∧
    (64 < n.toNat → exec (.hmacOneshot n) s = .next (failed s 3 s.toBlock)) ∧
    (n.toNat ≤ 64 → s.key.kmode ≠ .ready → exec (.hmacOneshot n) s = .next (failed s 6 s.toBlock))) ∧
  RefusesReservedBits 0x17 0xFFFF8000 id

/-- 41_hmac.md R154: KEY_CLEAR zeroizes the key in every state, and an HMAC message with it; a SHA-1 message stays. -/
def Obligations.KeyClearZeroizesKey : Prop :=
  (∀ s : State,
    (s.ctx.mode = .hmac →
      exec .keyClear s = .next (finished s { s.toBlock with key := Key.key0, ctx := Ctx.idle0 })) ∧
    (s.ctx.mode ≠ .hmac → exec .keyClear s = .next (finished s { s.toBlock with key := Key.key0 }))) ∧
  RefusesReservedBits 0x18 0xFFFFFF00 id

/-- The function `hmac` is the nested form `SHA-1((K0 xor opad) ‖ SHA-1((K0 xor ipad) ‖ m))` (41_hmac.md R145). -/
def Obligations.HmacMatchesNestedForm : Prop :=
  ∀ k m : List Byte,
    hmac k m = sha1 (xorBytes (paddedKey k) (List.replicate 64 0x5C)
      ++ sha1 (xorBytes (paddedKey k) (List.replicate 64 0x36) ++ m))

/-- 41_hmac.md R155: a key loaded in any split over both absorbs, and any message in any split, give `hmac(K, m)`; the key
stays loaded for the next message; ONESHOT gives the same. -/
def Obligations.HmacSequencesComputeHmac : Prop :=
  (∀ (s : State) (ks : List KeyPiece), s.ctx.mode ≠ .hmac → (∀ p ∈ ks, p.count.toNat ≤ 64) →
    (keyOf ks).length ≤ 2 ^ 61 - 1 →
    ∃ t, andThen (andThen (exec .hmacKeyBegin s) (feedKey ks)) (exec .hmacKeyEnd) = .next t ∧
      t.err = false ∧ t.key = readyKey (keyOf ks)) ∧
  (∀ (s : State) (k : List Byte) (ms : List Piece), s.key = readyKey k → (∀ p ∈ ms, p.2.toNat ≤ 64) →
    (message ms).length ≤ 2 ^ 61 - 65 →
    ∃ t, andThen (andThen (exec .hmacInit s) (feed .hmacUpdate ms)) (exec .hmacFinal) = .next t ∧
      t.err = false ∧ t.out.toList.take 20 = hmac k (message ms) ∧ t.key = s.key) ∧
  ∀ (s : State) (k : List Byte) (n : Count), s.key = readyKey k → n.toNat ≤ 64 →
    ∃ t, exec (.hmacOneshot n) s = .next t ∧ t.out.toList.take 20 = hmac k (s.inbuf.toList.take n.toNat) ∧
      t.key = s.key

/-! ### PBKDF2 -/

/-- 42_pbkdf2.md R163: PBKDF2 outputs `dk` bytes of the XORs of `iter` successive HMAC applications, block after block
(R161, R162), zeroes the rest of `out` and changes nothing else; its errors in their order. -/
def Obligations.Pbkdf2OutputsDerivedKey : Prop :=
  (∀ (s : State) (n d : Count),
    (n.toNat ≤ 64 → 1 ≤ d.toNat → d.toNat ≤ 80 → s.iter ≠ 0 → s.key.kmode = .ready → s.ctx.mode = .idle →
      ∃ o, HoldsThenZeros o (((List.range ((d.toNat + 19) / 20)).flatMap fun i =>
          pbkdf2T s.key.iks s.key.oks (s.inbuf.toList.take n.toNat) s.iter.toNat (i + 1)).take d.toNat) ∧
        exec (.pbkdf2 n d) s = .next (finished s { s.toBlock with out := o })) ∧
    (64 < n.toNat → exec (.pbkdf2 n d) s = .next (failed s 3 s.toBlock)) ∧
    (n.toNat ≤ 64 → d.toNat = 0 ∨ 80 < d.toNat → exec (.pbkdf2 n d) s = .next (failed s 4 s.toBlock)) ∧
    (n.toNat ≤ 64 → 1 ≤ d.toNat → d.toNat ≤ 80 → s.iter = 0 →
      exec (.pbkdf2 n d) s = .next (failed s 5 s.toBlock)) ∧
    (n.toNat ≤ 64 → 1 ≤ d.toNat → d.toNat ≤ 80 → s.iter ≠ 0 → s.key.kmode ≠ .ready →
      exec (.pbkdf2 n d) s = .next (failed s 6 s.toBlock)) ∧
    (n.toNat ≤ 64 → 1 ≤ d.toNat → d.toNat ≤ 80 → s.iter ≠ 0 → s.key.kmode = .ready → s.ctx.mode ≠ .idle →
      exec (.pbkdf2 n d) s = .next (failed s 7 s.toBlock))) ∧
  RefusesReservedBits 0x20 0xFF808000 id

/-- 42_pbkdf2.md R166: a shorter derived key is a prefix of a longer one. -/
def Obligations.Pbkdf2ShorterIsPrefix : Prop :=
  ∀ (s : State) (n d1 d2 : Count), n.toNat ≤ 64 → 1 ≤ d1.toNat → d1.toNat ≤ d2.toNat → d2.toNat ≤ 80 → s.iter ≠ 0 →
    s.key.kmode = .ready → s.ctx.mode = .idle →
    ∃ t1 t2, exec (.pbkdf2 n d1) s = .next t1 ∧ exec (.pbkdf2 n d2) s = .next t2 ∧
      t1.out.toList.take d1.toNat = t2.out.toList.take d1.toNat

/-- 42_pbkdf2.md R167: PBKDF2, HMAC_KEY_BEGIN, HMAC_KEY_ABSORB_OUT and HMAC_KEY_END make the derived key the HMAC key and
leave `out` zero. -/
def Obligations.Pbkdf2ChainsIntoHmac : Prop :=
  ∀ (s : State) (n d : Count), n.toNat ≤ 64 → 1 ≤ d.toNat → d.toNat ≤ 64 → s.iter ≠ 0 →
    s.key.kmode = .ready → s.ctx.mode = .idle →
    ∃ t, andThen (andThen (andThen (exec (.pbkdf2 n d) s) (exec .hmacKeyBegin)) (exec (.hmacKeyAbsorbOut d)))
        (exec .hmacKeyEnd) = .next t ∧
      t.key = readyKey (pbkdf2 s.key.iks s.key.oks (s.inbuf.toList.take n.toNat) s.iter.toNat d.toNat) ∧
      t.out.toList = List.replicate 80 0

/-! ### CRC-16 -/

/-- 43_crc16.md R173-R175: the three CRC commands, with the CRC in its bit-serial form; nothing but `crc` and the status
fields changes. -/
def Obligations.CrcCommandsComputeCrc : Prop :=
  (∀ s : State, exec .crcInit s = .next (finished s { s.toBlock with crc := 0xFFFF })) ∧
  (∀ (s : State) (n : Count),
    (n.toNat ≤ 64 → exec (.crcUpdate n) s = .next (finished s { s.toBlock with
      crc := crcSerial s.crc (s.inbuf.toList.take n.toNat) })) ∧
    (64 < n.toNat → exec (.crcUpdate n) s = .next (failed s 3 s.toBlock))) ∧
  (∀ (s : State) (n : Count),
    (n.toNat ≤ 64 → exec (.crcOneshot n) s = .next (finished s { s.toBlock with
      crc := crcSerial 0xFFFF (s.inbuf.toList.take n.toNat) })) ∧
    (64 < n.toNat → exec (.crcOneshot n) s = .next (failed s 3 s.toBlock))) ∧
  RefusesReservedBits 0x30 0xFFFFFF00 id ∧ RefusesReservedBits 0x31 0xFFFF8000 id ∧
  RefusesReservedBits 0x32 0xFFFF8000 id

/-- 43_crc16.md R177: the CRC of a concatenation, and CRC_INIT or CRC_ONESHOT on the first piece followed by CRC_UPDATE on
each later piece. -/
def Obligations.CrcPiecesGiveWholeCrc : Prop :=
  (∀ a b : List Byte, crc16 (a ++ b) = crcFold (crc16 a) b) ∧
  (∀ (s : State) (ps : List Piece), (∀ p ∈ ps, p.2.toNat ≤ 64) →
    ∃ t, andThen (exec .crcInit s) (feed .crcUpdate ps) = .next t ∧ t.crc = crc16 (message ps)) ∧
  ∀ (s : State) (p : Piece) (ps : List Piece), p.2.toNat ≤ 64 → (∀ q ∈ ps, q.2.toNat ≤ 64) →
    ∃ t, andThen (exec (.crcOneshot p.2) { s with inbuf := p.1 }) (feed .crcUpdate ps) = .next t ∧
      t.crc = crc16 (message (p :: ps))

/-- 43_crc16.md R178: the affine law, and that the CRC is not linear over XOR. -/
def Obligations.CrcAffineLaw : Prop :=
  (∀ a b : List Byte, a.length = b.length →
    crc16 a ^^^ crc16 b ^^^ crc16 (List.replicate a.length 0) = crc16 (xorBytes a b)) ∧
  (crc16 [0x00] ^^^ crc16 [0x00] = 0x0000 ∧ crc16 (xorBytes [0x00] [0x00]) = 0x0F87)

/-- 43_crc16.md R183: the residue of a payload with its complemented CRC stored little-endian after it. -/
def Obligations.CrcResidueIsConstant : Prop :=
  ∀ p : List Byte, crc16 (p ++ le16 (crc16 p ^^^ 0xFFFF)) = 0xF0B8

/-! ### System -/

/-- 44_system.md R190: ZEROIZE zeroes both buffers, the context and the key in every state, and keeps `crc`, `iter` and
`irq_en`. -/
def Obligations.ZeroizeErasesSecrets : Prop :=
  (∀ s : State, exec .zeroize s = .next (finished s { s.toBlock with
    inbuf := Vector.replicate 64 0, out := Vector.replicate 80 0, ctx := ⟨.idle, ⟨0, 0, 0, 0, 0⟩, [], 0⟩,
    key := ⟨.none, ⟨0, 0, 0, 0, 0⟩, ⟨0, 0, 0, 0, 0⟩, .short []⟩ })) ∧
  RefusesReservedBits 0x3F 0xFFFFFF00 id

/-- After ZEROIZE nothing tells apart two states that differed only in what may hold a secret: not even hidden state, and
so no later sequence of accesses and commands (44_system.md R190, 70_reset_and_hazards.md R231). -/
def Obligations.ZeroizeForgetsSecrets : Prop :=
  ∀ (s u t : State) (k : Nat), s.crc = u.crc → s.iter = u.iter → s.irqEn = u.irqEn → s.wdrop = u.wdrop →
    s.lastop = u.lastop → s.agenda = u.agenda → s.replies = u.replies → exec .zeroize s = .next t →
    ∃ t', exec .zeroize u = .next t' ∧ Host.Core.run core k t' = Host.Core.run core k t
end

