-- ==== Sys2Proof/Laws/State.lean ====
section
/-! SUPPORT. One lemma per field and update of the state, each true by unfolding, so that no proof unfolds a record
update. -/

namespace Sys2Proof.Machine

variable (b : Block)

/-! ### completeOk -/

@[simp] theorem Block.completeOk_inbuf : (b.completeOk).inbuf = b.inbuf := rfl
@[simp] theorem Block.completeOk_out : (b.completeOk).out = b.out := rfl
@[simp] theorem Block.completeOk_ctx : (b.completeOk).ctx = b.ctx := rfl
@[simp] theorem Block.completeOk_key : (b.completeOk).key = b.key := rfl
@[simp] theorem Block.completeOk_crc : (b.completeOk).crc = b.crc := rfl
@[simp] theorem Block.completeOk_iter : (b.completeOk).iter = b.iter := rfl
@[simp] theorem Block.completeOk_irqEn : (b.completeOk).irqEn = b.irqEn := rfl
@[simp] theorem Block.completeOk_busy : (b.completeOk).busy = false := rfl
@[simp] theorem Block.completeOk_pending : (b.completeOk).pending = 0 := rfl
@[simp] theorem Block.completeOk_done : (b.completeOk).done = true := rfl
@[simp] theorem Block.completeOk_err : (b.completeOk).err = false := rfl
@[simp] theorem Block.completeOk_errcode : (b.completeOk).errcode = 0 := rfl
@[simp] theorem Block.completeOk_wdrop : (b.completeOk).wdrop = b.wdrop := rfl
@[simp] theorem Block.completeOk_lastop : (b.completeOk).lastop = b.lastop := rfl

/-! ### completeErr -/

@[simp] theorem Block.completeErr_inbuf (e : CmdError) : (b.completeErr e).inbuf = b.inbuf := rfl
@[simp] theorem Block.completeErr_out (e : CmdError) : (b.completeErr e).out = b.out := rfl
@[simp] theorem Block.completeErr_ctx (e : CmdError) : (b.completeErr e).ctx = b.ctx := rfl
@[simp] theorem Block.completeErr_key (e : CmdError) : (b.completeErr e).key = b.key := rfl
@[simp] theorem Block.completeErr_crc (e : CmdError) : (b.completeErr e).crc = b.crc := rfl
@[simp] theorem Block.completeErr_iter (e : CmdError) : (b.completeErr e).iter = b.iter := rfl
@[simp] theorem Block.completeErr_irqEn (e : CmdError) : (b.completeErr e).irqEn = b.irqEn := rfl
@[simp] theorem Block.completeErr_busy (e : CmdError) : (b.completeErr e).busy = false := rfl
@[simp] theorem Block.completeErr_pending (e : CmdError) : (b.completeErr e).pending = 0 := rfl
@[simp] theorem Block.completeErr_done (e : CmdError) : (b.completeErr e).done = true := rfl
@[simp] theorem Block.completeErr_err (e : CmdError) : (b.completeErr e).err = true := rfl
@[simp] theorem Block.completeErr_errcode (e : CmdError) : (b.completeErr e).errcode = e.code := rfl
@[simp] theorem Block.completeErr_wdrop (e : CmdError) : (b.completeErr e).wdrop = b.wdrop := rfl
@[simp] theorem Block.completeErr_lastop (e : CmdError) : (b.completeErr e).lastop = b.lastop := rfl

/-! ### issue -/

@[simp] theorem Block.issue_inbuf (v : Word) : (b.issue v).inbuf = b.inbuf := rfl
@[simp] theorem Block.issue_out (v : Word) : (b.issue v).out = b.out := rfl
@[simp] theorem Block.issue_ctx (v : Word) : (b.issue v).ctx = b.ctx := rfl
@[simp] theorem Block.issue_key (v : Word) : (b.issue v).key = b.key := rfl
@[simp] theorem Block.issue_crc (v : Word) : (b.issue v).crc = b.crc := rfl
@[simp] theorem Block.issue_iter (v : Word) : (b.issue v).iter = b.iter := rfl
@[simp] theorem Block.issue_irqEn (v : Word) : (b.issue v).irqEn = b.irqEn := rfl
@[simp] theorem Block.issue_busy (v : Word) : (b.issue v).busy = true := rfl
@[simp] theorem Block.issue_pending (v : Word) : (b.issue v).pending = v := rfl
@[simp] theorem Block.issue_done (v : Word) : (b.issue v).done = false := rfl
@[simp] theorem Block.issue_err (v : Word) : (b.issue v).err = false := rfl
@[simp] theorem Block.issue_errcode (v : Word) : (b.issue v).errcode = 0 := rfl
@[simp] theorem Block.issue_wdrop (v : Word) : (b.issue v).wdrop = b.wdrop := rfl
@[simp] theorem Block.issue_lastop (v : Word) : (b.issue v).lastop = v.extractLsb' 0 8 := rfl

/-! ### writeStatus -/

@[simp] theorem Block.writeStatus_inbuf (v : Word) : (b.writeStatus v).inbuf = b.inbuf := rfl
@[simp] theorem Block.writeStatus_out (v : Word) : (b.writeStatus v).out = b.out := rfl
@[simp] theorem Block.writeStatus_ctx (v : Word) : (b.writeStatus v).ctx = b.ctx := rfl
@[simp] theorem Block.writeStatus_key (v : Word) : (b.writeStatus v).key = b.key := rfl
@[simp] theorem Block.writeStatus_crc (v : Word) : (b.writeStatus v).crc = b.crc := rfl
@[simp] theorem Block.writeStatus_iter (v : Word) : (b.writeStatus v).iter = b.iter := rfl
@[simp] theorem Block.writeStatus_irqEn (v : Word) : (b.writeStatus v).irqEn = b.irqEn := rfl
@[simp] theorem Block.writeStatus_busy (v : Word) : (b.writeStatus v).busy = b.busy := rfl
@[simp] theorem Block.writeStatus_pending (v : Word) : (b.writeStatus v).pending = b.pending := rfl
@[simp] theorem Block.writeStatus_done (v : Word) : (b.writeStatus v).done = (b.done && !v.getLsbD 1) := rfl
@[simp] theorem Block.writeStatus_err (v : Word) : (b.writeStatus v).err = (b.err && !v.getLsbD 2) := rfl
@[simp] theorem Block.writeStatus_errcode (v : Word) : (b.writeStatus v).errcode = (if v.getLsbD 2 then 0 else b.errcode) := rfl
@[simp] theorem Block.writeStatus_wdrop (v : Word) : (b.writeStatus v).wdrop = (b.wdrop && !v.getLsbD 3) := rfl
@[simp] theorem Block.writeStatus_lastop (v : Word) : (b.writeStatus v).lastop = b.lastop := rfl

/-! ### dropWrite -/

@[simp] theorem Block.dropWrite_inbuf : (b.dropWrite).inbuf = b.inbuf := rfl
@[simp] theorem Block.dropWrite_out : (b.dropWrite).out = b.out := rfl
@[simp] theorem Block.dropWrite_ctx : (b.dropWrite).ctx = b.ctx := rfl
@[simp] theorem Block.dropWrite_key : (b.dropWrite).key = b.key := rfl
@[simp] theorem Block.dropWrite_crc : (b.dropWrite).crc = b.crc := rfl
@[simp] theorem Block.dropWrite_iter : (b.dropWrite).iter = b.iter := rfl
@[simp] theorem Block.dropWrite_irqEn : (b.dropWrite).irqEn = b.irqEn := rfl
@[simp] theorem Block.dropWrite_busy : (b.dropWrite).busy = b.busy := rfl
@[simp] theorem Block.dropWrite_pending : (b.dropWrite).pending = b.pending := rfl
@[simp] theorem Block.dropWrite_done : (b.dropWrite).done = b.done := rfl
@[simp] theorem Block.dropWrite_err : (b.dropWrite).err = b.err := rfl
@[simp] theorem Block.dropWrite_errcode : (b.dropWrite).errcode = b.errcode := rfl
@[simp] theorem Block.dropWrite_wdrop : (b.dropWrite).wdrop = true := rfl
@[simp] theorem Block.dropWrite_lastop : (b.dropWrite).lastop = b.lastop := rfl

/-! ### setOut -/

@[simp] theorem Block.setOut_inbuf (d : List Byte) : (b.setOut d).inbuf = b.inbuf := rfl
@[simp] theorem Block.setOut_out (d : List Byte) : (b.setOut d).out = padTo Config.outBytes d := rfl
@[simp] theorem Block.setOut_ctx (d : List Byte) : (b.setOut d).ctx = b.ctx := rfl
@[simp] theorem Block.setOut_key (d : List Byte) : (b.setOut d).key = b.key := rfl
@[simp] theorem Block.setOut_crc (d : List Byte) : (b.setOut d).crc = b.crc := rfl
@[simp] theorem Block.setOut_iter (d : List Byte) : (b.setOut d).iter = b.iter := rfl
@[simp] theorem Block.setOut_irqEn (d : List Byte) : (b.setOut d).irqEn = b.irqEn := rfl
@[simp] theorem Block.setOut_busy (d : List Byte) : (b.setOut d).busy = b.busy := rfl
@[simp] theorem Block.setOut_pending (d : List Byte) : (b.setOut d).pending = b.pending := rfl
@[simp] theorem Block.setOut_done (d : List Byte) : (b.setOut d).done = b.done := rfl
@[simp] theorem Block.setOut_err (d : List Byte) : (b.setOut d).err = b.err := rfl
@[simp] theorem Block.setOut_errcode (d : List Byte) : (b.setOut d).errcode = b.errcode := rfl
@[simp] theorem Block.setOut_wdrop (d : List Byte) : (b.setOut d).wdrop = b.wdrop := rfl
@[simp] theorem Block.setOut_lastop (d : List Byte) : (b.setOut d).lastop = b.lastop := rfl

/-! ### zeroInbuf -/

@[simp] theorem Block.zeroInbuf_inbuf : (b.zeroInbuf).inbuf = zeroBuf Config.inbufBytes := rfl
@[simp] theorem Block.zeroInbuf_out : (b.zeroInbuf).out = b.out := rfl
@[simp] theorem Block.zeroInbuf_ctx : (b.zeroInbuf).ctx = b.ctx := rfl
@[simp] theorem Block.zeroInbuf_key : (b.zeroInbuf).key = b.key := rfl
@[simp] theorem Block.zeroInbuf_crc : (b.zeroInbuf).crc = b.crc := rfl
@[simp] theorem Block.zeroInbuf_iter : (b.zeroInbuf).iter = b.iter := rfl
@[simp] theorem Block.zeroInbuf_irqEn : (b.zeroInbuf).irqEn = b.irqEn := rfl
@[simp] theorem Block.zeroInbuf_busy : (b.zeroInbuf).busy = b.busy := rfl
@[simp] theorem Block.zeroInbuf_pending : (b.zeroInbuf).pending = b.pending := rfl
@[simp] theorem Block.zeroInbuf_done : (b.zeroInbuf).done = b.done := rfl
@[simp] theorem Block.zeroInbuf_err : (b.zeroInbuf).err = b.err := rfl
@[simp] theorem Block.zeroInbuf_errcode : (b.zeroInbuf).errcode = b.errcode := rfl
@[simp] theorem Block.zeroInbuf_wdrop : (b.zeroInbuf).wdrop = b.wdrop := rfl
@[simp] theorem Block.zeroInbuf_lastop : (b.zeroInbuf).lastop = b.lastop := rfl

/-! ### zeroOut -/

@[simp] theorem Block.zeroOut_inbuf : (b.zeroOut).inbuf = b.inbuf := rfl
@[simp] theorem Block.zeroOut_out : (b.zeroOut).out = zeroBuf Config.outBytes := rfl
@[simp] theorem Block.zeroOut_ctx : (b.zeroOut).ctx = b.ctx := rfl
@[simp] theorem Block.zeroOut_key : (b.zeroOut).key = b.key := rfl
@[simp] theorem Block.zeroOut_crc : (b.zeroOut).crc = b.crc := rfl
@[simp] theorem Block.zeroOut_iter : (b.zeroOut).iter = b.iter := rfl
@[simp] theorem Block.zeroOut_irqEn : (b.zeroOut).irqEn = b.irqEn := rfl
@[simp] theorem Block.zeroOut_busy : (b.zeroOut).busy = b.busy := rfl
@[simp] theorem Block.zeroOut_pending : (b.zeroOut).pending = b.pending := rfl
@[simp] theorem Block.zeroOut_done : (b.zeroOut).done = b.done := rfl
@[simp] theorem Block.zeroOut_err : (b.zeroOut).err = b.err := rfl
@[simp] theorem Block.zeroOut_errcode : (b.zeroOut).errcode = b.errcode := rfl
@[simp] theorem Block.zeroOut_wdrop : (b.zeroOut).wdrop = b.wdrop := rfl
@[simp] theorem Block.zeroOut_lastop : (b.zeroOut).lastop = b.lastop := rfl

/-! ### zeroizeSecrets -/

@[simp] theorem Block.zeroizeSecrets_inbuf : (b.zeroizeSecrets).inbuf = zeroBuf Config.inbufBytes := rfl
@[simp] theorem Block.zeroizeSecrets_out : (b.zeroizeSecrets).out = zeroBuf Config.outBytes := rfl
@[simp] theorem Block.zeroizeSecrets_ctx : (b.zeroizeSecrets).ctx = Ctx.idle0 := rfl
@[simp] theorem Block.zeroizeSecrets_key : (b.zeroizeSecrets).key = Key.key0 := rfl
@[simp] theorem Block.zeroizeSecrets_crc : (b.zeroizeSecrets).crc = b.crc := rfl
@[simp] theorem Block.zeroizeSecrets_iter : (b.zeroizeSecrets).iter = b.iter := rfl
@[simp] theorem Block.zeroizeSecrets_irqEn : (b.zeroizeSecrets).irqEn = b.irqEn := rfl
@[simp] theorem Block.zeroizeSecrets_busy : (b.zeroizeSecrets).busy = b.busy := rfl
@[simp] theorem Block.zeroizeSecrets_pending : (b.zeroizeSecrets).pending = b.pending := rfl
@[simp] theorem Block.zeroizeSecrets_done : (b.zeroizeSecrets).done = b.done := rfl
@[simp] theorem Block.zeroizeSecrets_err : (b.zeroizeSecrets).err = b.err := rfl
@[simp] theorem Block.zeroizeSecrets_errcode : (b.zeroizeSecrets).errcode = b.errcode := rfl
@[simp] theorem Block.zeroizeSecrets_wdrop : (b.zeroizeSecrets).wdrop = b.wdrop := rfl
@[simp] theorem Block.zeroizeSecrets_lastop : (b.zeroizeSecrets).lastop = b.lastop := rfl

/-! ### zeroKeySource -/

@[simp] theorem Block.zeroKeySource_ctx (op : Opcode) : (b.zeroKeySource op).ctx = b.ctx := by cases op <;> rfl
@[simp] theorem Block.zeroKeySource_key (op : Opcode) : (b.zeroKeySource op).key = b.key := by cases op <;> rfl
@[simp] theorem Block.zeroKeySource_crc (op : Opcode) : (b.zeroKeySource op).crc = b.crc := by cases op <;> rfl
@[simp] theorem Block.zeroKeySource_iter (op : Opcode) : (b.zeroKeySource op).iter = b.iter := by cases op <;> rfl
@[simp] theorem Block.zeroKeySource_irqEn (op : Opcode) : (b.zeroKeySource op).irqEn = b.irqEn := by cases op <;> rfl
@[simp] theorem Block.zeroKeySource_busy (op : Opcode) : (b.zeroKeySource op).busy = b.busy := by cases op <;> rfl
@[simp] theorem Block.zeroKeySource_pending (op : Opcode) : (b.zeroKeySource op).pending = b.pending := by cases op <;> rfl
@[simp] theorem Block.zeroKeySource_done (op : Opcode) : (b.zeroKeySource op).done = b.done := by cases op <;> rfl
@[simp] theorem Block.zeroKeySource_err (op : Opcode) : (b.zeroKeySource op).err = b.err := by cases op <;> rfl
@[simp] theorem Block.zeroKeySource_errcode (op : Opcode) : (b.zeroKeySource op).errcode = b.errcode := by cases op <;> rfl
@[simp] theorem Block.zeroKeySource_wdrop (op : Opcode) : (b.zeroKeySource op).wdrop = b.wdrop := by cases op <;> rfl
@[simp] theorem Block.zeroKeySource_lastop (op : Opcode) : (b.zeroKeySource op).lastop = b.lastop := by cases op <;> rfl

/-- Only HMAC_KEY_ABSORB zeroes `inbuf` on every outcome (60_exceptions.md R205). -/
@[simp] theorem Block.zeroKeySource_inbuf (op : Opcode) :
    (b.zeroKeySource op).inbuf = if op = .hmacKeyAbsorb then zeroBuf Config.inbufBytes else b.inbuf := by
  cases op <;> rfl

/-- Only HMAC_KEY_ABSORB_OUT zeroes `out` on every outcome (60_exceptions.md R205). -/
@[simp] theorem Block.zeroKeySource_out (op : Opcode) :
    (b.zeroKeySource op).out = if op = .hmacKeyAbsorbOut then zeroBuf Config.outBytes else b.out := by
  cases op <;> rfl

/-- Every other command zeroes nothing on a failure (60_exceptions.md R205). -/
theorem Block.zeroKeySource_of_plain (op : Opcode) (h1 : op ≠ .hmacKeyAbsorb) (h2 : op ≠ .hmacKeyAbsorbOut) :
    b.zeroKeySource op = b := by
  cases op <;> first | rfl | exact absurd rfl h1 | exact absurd rfl h2

/-! ### The surroundings -/

variable (s : State)

@[simp] theorem State.hostAccess_toBlock (a : Access) : (s.hostAccess a).toBlock = (s.toBlock.access a).2 := rfl
@[simp] theorem State.hostAccess_agenda (a : Access) : (s.hostAccess a).agenda = s.agenda := rfl
@[simp] theorem State.hostAccess_replies (a : Access) :
    (s.hostAccess a).replies = (s.toBlock.access a).1 :: s.replies := rfl
@[simp] theorem State.resetStep_toBlock : s.resetStep.toBlock = Block.reset := rfl
@[simp] theorem State.resetStep_agenda : s.resetStep.agenda = s.agenda := rfl
@[simp] theorem State.resetStep_replies : s.resetStep.replies = s.replies := rfl
@[simp] theorem Block.softReset_eq : b.softReset = Block.reset := rfl
@[simp] theorem State.withFetchWord_toBlock (n w : Nat) :
    (s.withFetchWord n w).toBlock = s.toBlock.issue (BitVec.ofNat 32 (w % 2 ^ n)) := rfl
@[simp] theorem State.withFetchWord_agenda (n w : Nat) : (s.withFetchWord n w).agenda = [] := rfl
@[simp] theorem State.withFetchWord_replies (n w : Nat) : (s.withFetchWord n w).replies = s.replies := rfl
@[simp] theorem State.reset_toBlock : State.reset.toBlock = Block.reset := rfl
@[simp] theorem State.reset_agenda : State.reset.agenda = [] := rfl
@[simp] theorem State.reset_replies : State.reset.replies = [] := rfl

end Sys2Proof.Machine
end

