-- ==== Sys2Proof/Laws/Bytes.lean ====
section
/-! SUPPORT. Byte sequences and the byte buffers: lengths, lanes, and a word written and read back. -/

namespace Sys2Proof.Machine

@[simp] theorem be32_length (v : Word) : (be32 v).length = 4 := rfl
@[simp] theorem be64_length (v : BitVec 64) : (be64 v).length = 8 := rfl
@[simp] theorem le16_length (v : Word16) : (le16 v).length = 2 := rfl
@[simp] theorem copies_length (c : Byte) (n : Nat) : (copies c n).length = n := by simp [copies]
@[simp] theorem xorBytes_length (s t : List Byte) : (xorBytes s t).length = min s.length t.length := by simp [xorBytes]

/-- A buffer made from a sequence: the sequence, then zeros, at the buffer's length. -/
theorem padTo_toList (n : Nat) (s : List Byte) : (padTo n s).toList = (s ++ copies 0 n).take n := by
  simp [padTo, Vector.toList]

/-- A sequence no longer than the buffer stands in it whole, zeros after it. -/
theorem padTo_toList_of_le {n : Nat} {s : List Byte} (h : s.length ≤ n) :
    (padTo n s).toList = s ++ copies 0 (n - s.length) := by
  rw [padTo_toList, List.take_append, List.take_of_length_le h]
  simp [copies]

@[simp] theorem zeroBuf_toList (n : Nat) : (zeroBuf n).toList = copies 0 n := by
  simp [zeroBuf, copies, Vector.toList]

@[simp] theorem Block.inBytes_length (b : Block) (n : Count) (h : n.toNat ≤ 64) : (b.inBytes n).length = n.toNat := by
  simp [Block.inBytes, Config.inbufBytes]; omega

@[simp] theorem Block.outBytes_length (b : Block) (n : Count) (h : n.toNat ≤ 80) : (b.outBytes n).length = n.toNat := by
  simp [Block.outBytes, Config.outBytes]; omega

/-- The four bytes of a little-endian word are its lanes. -/
theorem byteLane_le32 (b0 b1 b2 b3 : Byte) :
    byteLane (le32 b0 b1 b2 b3) 0 = b0 ∧ byteLane (le32 b0 b1 b2 b3) 1 = b1 ∧
    byteLane (le32 b0 b1 b2 b3) 2 = b2 ∧ byteLane (le32 b0 b1 b2 b3) 3 = b3 := by
  refine ⟨?_, ?_, ?_, ?_⟩ <;>
  · apply BitVec.eq_of_getLsbD_eq
    intro i hi
    simp only [byteLane, le32, BitVec.getLsbD_extractLsb', BitVec.getLsbD_or, BitVec.getLsbD_shiftLeft,
      BitVec.getLsbD_setWidth, hi]
    interval_cases i <;> simp

/-- A word is put together again from its lanes. -/
theorem le32_byteLane (v : Word) : le32 (byteLane v 0) (byteLane v 1) (byteLane v 2) (byteLane v 3) = v := by
  apply BitVec.eq_of_getLsbD_eq
  intro i hi
  simp only [byteLane, le32, BitVec.getLsbD_extractLsb', BitVec.getLsbD_or, BitVec.getLsbD_shiftLeft,
    BitVec.getLsbD_setWidth, hi]
  interval_cases i <;> simp

/-- Byte `k` of a buffer after one of its words is replaced. -/
theorem byteAt_setBufWord {n : Nat} (b : Vector Byte n) (w : Nat) (v : Word) (k : Nat) (h : 4 * w + 3 < n) :
    byteAt (setBufWord b w v).toList k = if k / 4 = w then byteLane v (k % 4) else byteAt b.toList k := by
  obtain ⟨⟨l⟩, hl⟩ := b
  simp only [List.size_toArray] at hl
  simp only [setBufWord, Vector.toList, byteAt, Vector.setIfInBounds, Array.setIfInBounds]
  simp only [List.size_toArray, hl, List.set_toArray]
  have h0 : 4 * w < n := by omega
  have h1 : 4 * w + 1 < n := by omega
  have h2 : 4 * w + 2 < n := by omega
  simp [h0, h1, h2, h, hl, List.getElem?_set]
  by_cases hk : k / 4 = w
  · have : k = 4 * w + k % 4 := by omega
    have hm : k % 4 < 4 := Nat.mod_lt _ (by decide)
    rw [if_pos hk]
    generalize k % 4 = j at *
    subst this
    interval_cases j <;> simp
  · rw [if_neg hk]
    have a0 : ¬ (4 * w = k) := by omega
    have a1 : ¬ (4 * w + 1 = k) := by omega
    have a2 : ¬ (4 * w + 2 = k) := by omega
    have a3 : ¬ (4 * w + 3 = k) := by omega
    simp [a0, a1, a2, a3]

end Sys2Proof.Machine
end

