-- ==== Sys2Proof/Laws/Crc.lean ====
section
/-! SUPPORT. The CRC's iterations are linear over XOR, and its fold runs over a sequence in pieces (43_crc16.md R170,
R171). -/

namespace Sys2Proof.Machine

@[simp] theorem crcFold_nil (c : Word16) : crcFold c [] = c := rfl
@[simp] theorem crcFold_cons (c : Word16) (b : Byte) (m : List Byte) : crcFold c (b :: m) = crcFold (crcByte c b) m := rfl

theorem crcFold_append (c : Word16) (m n : List Byte) : crcFold c (m ++ n) = crcFold (crcFold c m) n :=
  List.foldl_append

/-- One iteration is linear over XOR. -/
theorem crcBit_xor (x y : Word16) : crcBit (x ^^^ y) = crcBit x ^^^ crcBit y := by
  unfold crcBit
  rw [BitVec.getLsbD_xor, BitVec.ushiftRight_xor_distrib]
  apply BitVec.eq_of_getLsbD_eq
  intro i _
  cases x.getLsbD 0 <;> cases y.getLsbD 0 <;> simp only [Bool.xor_false, Bool.xor_true, Bool.not_true, Bool.not_false,
    if_true, if_false, Bool.false_eq_true, BitVec.getLsbD_xor] <;>
    cases (x >>> 1).getLsbD i <;> cases (y >>> 1).getLsbD i <;> cases Config.crcPoly.getLsbD i <;> rfl

/-- Any number of iterations is linear over XOR. -/
theorem crcBit_iterate_xor (k : Nat) (x y : Word16) :
    crcBit^[k] (x ^^^ y) = crcBit^[k] x ^^^ crcBit^[k] y := by
  induction k generalizing x y with
  | zero => rfl
  | succ k ih => rw [Function.iterate_succ_apply, crcBit_xor, ih]; rfl

end Sys2Proof.Machine
end

