-- ==== Sys2Proof/Laws/Decode.lean ====
section
/-! SUPPORT. The decoder said by its three outcomes (30_encoding.md R86), and the fields of a word as numbers (R81). -/

namespace Sys2Proof

/-! ### The fields as numbers -/

theorem opcodeField_toNat (w : Word) : (opcodeField w).toNat = w.toNat % 256 := by simp [opcodeField]

theorem lenField_toNat (w : Word) : (lenField w).toNat = w.toNat / 256 % 128 := by
  simp [lenField, Nat.shiftRight_eq_div_pow]

theorem rsv0Field_toNat (w : Word) : (rsv0Field w).toNat = w.toNat / 32768 % 2 := by
  simp [rsv0Field, Nat.shiftRight_eq_div_pow]

theorem dklenField_toNat (w : Word) : (dklenField w).toNat = w.toNat / 65536 % 128 := by
  simp [dklenField, Nat.shiftRight_eq_div_pow]

theorem rsv1Field_toNat (w : Word) : (rsv1Field w).toNat = w.toNat / 8388608 := by
  have := w.isLt
  simp [rsv1Field, Nat.shiftRight_eq_div_pow]
  omega

/-! ### The opcode map -/

@[simp] theorem Opcode.ofByte_byte (op : Opcode) : Opcode.ofByte op.byte = some op := by cases op <;> rfl

/-- Each opcode has one value. -/
theorem Opcode.ofByte_eq_some (b : Byte) (op : Opcode) : Opcode.ofByte b = some op ↔ op.byte = b := by
  constructor
  · revert b
    cases op <;> decide +kernel
  · rintro rfl
    exact Opcode.ofByte_byte op

@[simp] theorem Opcode.instr_opcode (op : Opcode) (n d : Count) : (op.instr n d).opcode = op := by cases op <;> rfl

/-- A command is made of its mnemonic and its two counts. -/
@[simp] theorem Instr.opcode_instr (i : Instr) : i.opcode.instr i.len i.dklen = i := by cases i <;> rfl

/-! ### The decoder -/

/-- A word decodes to a command exactly when its opcode is one of the 18 and check 2 passes. -/
theorem decode_eq_ok (w : Word) (i : Instr) :
    decode w = .ok i ↔ ∃ op, Opcode.ofByte (opcodeField w) = some op ∧ reservedSet op w = false ∧
      i = op.instr (lenField w) (dklenField w) := by
  unfold decode
  cases h : Opcode.ofByte (opcodeField w) with
  | none => simp
  | some op =>
    cases hr : reservedSet op w
    · constructor
      · intro h'
        simp only [hr, Bool.false_eq_true, if_false, Except.ok.injEq] at h'
        exact ⟨op, rfl, hr, h'.symm⟩
      · rintro ⟨_, ⟨⟩, _, rfl⟩
        simp only [hr, Bool.false_eq_true, if_false]
    · constructor
      · intro h'
        simp only [hr, if_true, reduceCtorEq] at h'
      · rintro ⟨_, ⟨⟩, h', _⟩
        exact absurd (hr.symm.trans h') (by decide)

/-- A word is refused as illegal exactly when its opcode is none of the 18. -/
theorem decode_eq_illegal (w : Word) :
    decode w = .error .illegalOpcode ↔ Opcode.ofByte (opcodeField w) = none := by
  unfold decode
  cases h : Opcode.ofByte (opcodeField w) with
  | none => simp
  | some op => cases hr : reservedSet op w <;> simp [hr]

/-- A word is refused for its reserved bits exactly when its opcode is one of the 18 and check 2 fails. -/
theorem decode_eq_reserved (w : Word) (op : Opcode) :
    decode w = .error (.reservedBits op) ↔ Opcode.ofByte (opcodeField w) = some op ∧ reservedSet op w = true := by
  unfold decode
  cases h : Opcode.ofByte (opcodeField w) with
  | none => simp
  | some op' =>
    cases hr : reservedSet op' w
    · simp only [hr, Option.some.injEq, Bool.false_eq_true, if_false, reduceCtorEq, false_iff, not_and]
      rintro rfl
      simp [hr]
    · simp only [hr, if_true, Except.error.injEq, DecodeError.reservedBits.injEq, Option.some.injEq]
      constructor
      · rintro rfl; exact ⟨rfl, hr⟩
      · exact fun h => h.1

end Sys2Proof
end

