-- ==== Sys2Proof/Laws/Ops.lean ====
section
/-! SUPPORT. What each shared operation can do, said once: a command's run, the engine's step, a host access and the
machine's step. -/

namespace Sys2Proof.Machine

/-! ### Checks -/

@[simp] theorem firstError_nil : firstError [] = none := rfl

theorem firstError_cons (c : Check) (rest : List Check) :
    firstError (c :: rest) = if c.1 = true then some c.2 else firstError rest := by
  obtain ⟨fails, e⟩ := c
  cases fails <;> rfl

/-- No error is found when every check passes. -/
theorem firstError_cons_eq_none (c : Check) (rest : List Check) :
    firstError (c :: rest) = none ↔ c.1 = false ∧ firstError rest = none := by
  rw [firstError_cons]
  cases c.1 <;> simp

theorem checkLen_passes (n : Count) : (checkLen n).1 = false ↔ n.toNat ≤ 64 := by
  simp only [checkLen, lenOk, Bool.not_eq_false', decide_eq_true_eq]

theorem checkLen_fails (n : Count) : (checkLen n).1 = true ↔ 64 < n.toNat := by
  rw [← Bool.not_eq_false, checkLen_passes, Nat.not_le]

theorem checkDklen_passes (d : Count) : (checkDklen d).1 = false ↔ 1 ≤ d.toNat ∧ d.toNat ≤ 80 := by
  simp only [checkDklen, dklenOk, Bool.not_eq_false', Bool.and_eq_true, decide_eq_true_eq]

theorem checkDklen_fails (d : Count) : (checkDklen d).1 = true ↔ d.toNat = 0 ∨ 80 < d.toNat := by
  rw [← Bool.not_eq_false, checkDklen_passes]
  omega

theorem checkIter_passes (b : Block) : (checkIter b).1 = false ↔ b.iter ≠ 0 := by simp [checkIter]

theorem checkKey_passes (b : Block) : (checkKey b).1 = false ↔ b.key.kmode = .ready := by simp [checkKey]

theorem checkCtx_passes (b : Block) (m : CtxMode) : (checkCtx b m).1 = false ↔ b.ctx.mode = m := by simp [checkCtx]

theorem checkLoading_passes (b : Block) : (checkLoading b).1 = false ↔ b.key.kmode = .loading := by
  simp [checkLoading]

theorem checkLength_passes (total : Nat) : (checkLength total).1 = false ↔ total ≤ 2 ^ 61 - 1 := by
  simp only [checkLength, decide_eq_false_iff_not, Nat.not_lt]

theorem CmdError.code_ne_zero (e : CmdError) : e.code ≠ 0 := by cases e <;> decide

theorem CmdError.code_le (e : CmdError) : e.code.toNat ≤ 8 := by cases e <;> decide

/-! ### Running a command -/

/-- A command's run always answers a next state, and it is one of two. -/
theorem runCommand_cases (op : Opcode) (cs : List Check) (eff : Block → Block) (s : State) :
    (∃ e, firstError cs = some e ∧
      runCommand op cs eff s = .next { s with toBlock := (s.zeroKeySource op).completeErr e }) ∨
    (firstError cs = none ∧
      runCommand op cs eff s = .next { s with toBlock := ((eff s.toBlock).zeroKeySource op).completeOk }) := by
  unfold runCommand
  cases h : firstError cs with
  | none => exact .inr ⟨rfl, rfl⟩
  | some e => exact .inl ⟨e, rfl, rfl⟩

/-- A command none of whose checks fails has its effect and completes. -/
theorem runCommand_ok {op : Opcode} {cs : List Check} (eff : Block → Block) (s : State) (h : firstError cs = none) :
    runCommand op cs eff s = .next { s with toBlock := ((eff s.toBlock).zeroKeySource op).completeOk } := by
  simp [runCommand, h]

/-- A command whose first failing check gives `e` completes with that error. -/
theorem runCommand_err {op : Opcode} {cs : List Check} {e : CmdError} (eff : Block → Block) (s : State)
    (h : firstError cs = some e) :
    runCommand op cs eff s = .next { s with toBlock := (s.zeroKeySource op).completeErr e } := by
  simp [runCommand, h]

/-- What any run of a command leaves: it has completed, and the block's surroundings are as they were. -/
theorem runCommand_frame {op : Opcode} {cs : List Check} {eff : Block → Block} {s t : State}
    (h : runCommand op cs eff s = .next t) :
    t.busy = false ∧ t.pending = 0 ∧ t.done = true ∧ t.agenda = s.agenda ∧ t.replies = s.replies := by
  rcases runCommand_cases op cs eff s with ⟨e, -, he⟩ | ⟨-, he⟩ <;> rw [he] at h <;> cases h <;> simp

/-! ### Host accesses -/

/-- A host access can do four things to the block: nothing (an illegal access or a read), or what its write does. -/
theorem Block.access_cases (b : Block) (a : Access) :
    (∃ off n, a = .read off n ∧ accessLegal off n = true ∧ b.access a = (.value (b.readReg (regAt off)), b)) ∨
    (∃ off n v, a = .write off n v ∧ accessLegal off n = true ∧ b.access a = (.written, b.writeReg (regAt off) v)) ∨
    (∃ off n, (a = .read off n ∨ ∃ v, a = .write off n v) ∧ accessLegal off n = false ∧
      b.access a = (.busError off, b)) := by
  cases a with
  | read off n =>
    cases h : accessLegal off n
    · exact .inr (.inr ⟨off, n, .inl rfl, h, by simp [Block.access, h]⟩)
    · exact .inl ⟨off, n, rfl, h, by simp [Block.access, h]⟩
  | write off n v =>
    cases h : accessLegal off n
    · exact .inr (.inr ⟨off, n, .inr ⟨v, rfl⟩, h, by simp [Block.access, h]⟩)
    · exact .inr (.inl ⟨off, n, v, rfl, h, by simp [Block.access, h]⟩)

/-- What a register write can do to the block (20_memory.md R58, R59). -/
theorem Block.writeReg_cases (b : Block) (r : Reg) (v : Word) :
    (r = .ctrl ∧ v.getLsbD 0 = true ∧ b.writeReg r v = Block.reset) ∨
    (r = .ctrl ∧ v.getLsbD 0 = false ∧ b.writeReg r v = { b with irqEn := v.getLsbD 1 }) ∨
    (r = .status ∧ b.writeReg r v = b.writeStatus v) ∨
    (b.busy = true ∧ (r = .cmd ∨ r = .iter ∨ ∃ w, r = .inbuf w) ∧ b.writeReg r v = b.dropWrite) ∨
    (b.busy = false ∧ r = .cmd ∧ b.writeReg r v = b.issue v) ∨
    (b.busy = false ∧ r = .iter ∧ b.writeReg r v = { b with iter := v }) ∨
    (b.busy = false ∧ (∃ w, r = .inbuf w ∧ b.writeReg r v = { b with inbuf := setBufWord b.inbuf w.val v })) ∨
    b.writeReg r v = b := by
  unfold Block.writeReg
  cases r with
  | ctrl =>
    cases hv : v.getLsbD 0
    · exact .inr (.inl ⟨rfl, rfl, by simp⟩)
    · exact .inl ⟨rfl, rfl, by simp⟩
  | status => exact .inr (.inr (.inl ⟨rfl, rfl⟩))
  | cmd => cases hb : b.busy <;> simp
  | iter => cases hb : b.busy <;> simp
  | inbuf w => cases hb : b.busy <;> simp
  | _ => simp

/-! ### The engine and the machine's step -/

/-- The engine's step runs the decoded command, or completes an undecodable word with its error. -/
theorem engineStep_cases (s : State) :
    (∃ i, decode s.pending = .ok i ∧ engineStep s = exec i s) ∨
    (∃ e, decode s.pending = .error e ∧ engineStep s = .next { s with toBlock := s.toBlock.completeUndecoded e }) := by
  unfold engineStep
  cases h : decode s.pending with
  | ok i => exact .inl ⟨i, rfl, rfl⟩
  | error e => exact .inr ⟨e, rfl, rfl⟩

/-- The engine's turn, with nothing scheduled. -/
theorem step_of_idle_agenda {s : State} (ha : s.agenda = []) (hb : s.busy = true) : step s = engineStep s := by
  simp [step, agentStep, ha, hb]

/-- The engine's turn, as scheduled. -/
theorem step_of_engine {s : State} {rest : List Event} (ha : s.agenda = .engine :: rest) (hb : s.busy = true) :
    step s = engineStep { s with agenda := rest } := by
  simp [step, agentStep, ha, hb]

/-- A host access, as scheduled. -/
theorem step_of_access {s : State} {a : Access} {rest : List Event} (ha : s.agenda = .access a :: rest) :
    step s = .next ({ s with agenda := rest }.hostAccess a) := by
  simp [step, agentStep, ha]

/-- Everything a step that answers a next state can be: the engine's completion, a host access, a reset, a reset with a
host access before it, or nothing but the passing of the schedule's first entry. -/
theorem step_cases {s t : State} (h : step s = .next t) :
    (s.busy = true ∧ ∃ ag, engineStep { s with agenda := ag } = .next t) ∨
    (∃ a ag, t = { s with agenda := ag }.hostAccess a) ∨
    (∃ ag, t = { s with agenda := ag }.resetStep) ∨
    (∃ a ag, t = ({ s with agenda := ag }.hostAccess a).resetStep) ∨
    (s.busy = false ∧ ∃ ag, t = { s with agenda := ag }) := by
  unfold step agentStep at h
  split at h
  · rename_i hag
    split at h
    · rename_i hb; exact .inl ⟨hb, s.agenda, h⟩
    · rename_i hb; cases h; exact .inr (.inr (.inr (.inr ⟨by simpa using hb, s.agenda, rfl⟩)))
  · rename_i rest hag
    split at h
    · rename_i hb; exact .inl ⟨hb, rest, h⟩
    · rename_i hb; cases h; exact .inr (.inr (.inr (.inr ⟨by simpa using hb, rest, rfl⟩)))
  · rename_i a rest hag; cases h; exact .inr (.inl ⟨a, rest, rfl⟩)
  · rename_i rest hag
    split at h
    · rename_i hb; exact .inl ⟨hb, s.agenda, h⟩
    · cases h; exact .inr (.inl ⟨_, rest, rfl⟩)
  · rename_i k rest hag
    split at h
    · cases h; exact .inr (.inl ⟨_, _, rfl⟩)
    · cases h; exact .inr (.inl ⟨_, rest, rfl⟩)
  · rename_i rest hag; cases h; exact .inr (.inr (.inl ⟨rest, rfl⟩))
  · rename_i a p rest hag
    cases h
    cases p
    · exact .inr (.inr (.inl ⟨rest, rfl⟩))
    · exact .inr (.inr (.inr (.inl ⟨a, rest, rfl⟩)))
  · cases h

end Sys2Proof.Machine
end

