-- ==== Sys2Proof/Laws/Exec.lean ====
section
/-! SUPPORT. Every command is one `runCommand`: its checks and its effect in one table, so that a fact about all commands
is proved over `runCommand` once. -/

namespace Sys2Proof.Machine

/-- The checks of a command, in their order (60_exceptions.md R204). -/
def checksOf (i : Instr) (b : Block) : List Check :=
  match i with
  | .sha1Init => []
  | .sha1Update n => [checkLen n, checkCtx b .sha, checkLength (b.ctx.len + n.toNat)]
  | .sha1Final => [checkCtx b .sha]
  | .sha1Oneshot n => [checkLen n]
  | .hmacKeyBegin => [(b.ctx.mode == .hmac, .badState)]
  | .hmacKeyAbsorb n => [checkLen n, checkLoading b, checkLength (klen b.key.kacc + n.toNat)]
  | .hmacKeyAbsorbOut n => [checkLen n, checkLoading b, checkLength (klen b.key.kacc + n.toNat)]
  | .hmacKeyEnd => [checkLoading b]
  | .hmacInit => [checkKey b]
  | .hmacUpdate n => [checkLen n, checkCtx b .hmac, checkLength (b.ctx.len + n.toNat)]
  | .hmacFinal => [checkCtx b .hmac]
  | .hmacOneshot n => [checkLen n, checkKey b]
  | .keyClear => []
  | .pbkdf2 n d => [checkLen n, checkDklen d, checkIter b, checkKey b, checkCtx b .idle]
  | .crcInit => []
  | .crcUpdate n => [checkLen n]
  | .crcOneshot n => [checkLen n]
  | .zeroize => []

/-- The effect of a command whose checks all pass. -/
def effectOf (i : Instr) (b : Block) : Block :=
  match i with
  | .sha1Init => { b with ctx := ctxSha0 }
  | .sha1Update n => { b with ctx := absorb b.ctx (b.inBytes n) }
  | .sha1Final => { b.setOut (finalize b.ctx) with ctx := Ctx.idle0 }
  | .sha1Oneshot n => { b.setOut (sha1 (b.inBytes n)) with ctx := Ctx.idle0 }
  | .hmacKeyBegin => { b with key := { kmode := .loading, iks := Chain.zero, oks := Chain.zero, kacc := .short [] } }
  | .hmacKeyAbsorb n => { b with key := { b.key with kacc := kappend b.key.kacc (b.inBytes n) } }
  | .hmacKeyAbsorbOut n => { b with key := { b.key with kacc := kappend b.key.kacc (b.outBytes n) } }
  | .hmacKeyEnd => { b with key := { kmode := .ready, iks := innerKey (kfinal b.key.kacc),
                                     oks := outerKey (kfinal b.key.kacc), kacc := .short [] } }
  | .hmacInit => { b with ctx := hctx b.key.iks }
  | .hmacUpdate n => { b with ctx := absorb b.ctx (b.inBytes n) }
  | .hmacFinal => { b.setOut (hmacOuter b.key.oks (finalize b.ctx)) with ctx := Ctx.idle0 }
  | .hmacOneshot n => { b.setOut (hmacK b.key.iks b.key.oks (b.inBytes n)) with ctx := Ctx.idle0 }
  | .keyClear => { b with key := Key.key0, ctx := if b.ctx.mode = .hmac then Ctx.idle0 else b.ctx }
  | .pbkdf2 n d => b.setOut (pbkdf2 b.key.iks b.key.oks (b.inBytes n) b.iter.toNat d.toNat)
  | .crcInit => { b with crc := Config.crcSeed }
  | .crcUpdate n => { b with crc := crcFold b.crc (b.inBytes n) }
  | .crcOneshot n => { b with crc := crc16 (b.inBytes n) }
  | .zeroize => b.zeroizeSecrets

/-- Every command is its checks and its effect, run to completion. -/
theorem exec_eq_runCommand (i : Instr) (s : State) :
    exec i s = runCommand i.opcode (checksOf i s.toBlock) (effectOf i) s := by
  cases i <;> rfl

/-- A command whose checks all pass. -/
theorem exec_ok {i : Instr} {s : State} (h : firstError (checksOf i s.toBlock) = none) :
    exec i s = .next { s with toBlock := ((effectOf i s.toBlock).zeroKeySource i.opcode).completeOk } := by
  rw [exec_eq_runCommand, runCommand_ok _ _ h]

/-- A command whose first failing check gives `e`. -/
theorem exec_err {i : Instr} {s : State} {e : CmdError} (h : firstError (checksOf i s.toBlock) = some e) :
    exec i s = .next { s with toBlock := (s.zeroKeySource i.opcode).completeErr e } := by
  rw [exec_eq_runCommand, runCommand_err _ _ h]

/-- What any command leaves: it has completed, and the block's surroundings are as they were. -/
theorem exec_frame {i : Instr} {s t : State} (h : exec i s = .next t) :
    t.busy = false ∧ t.pending = 0 ∧ t.done = true ∧ t.agenda = s.agenda ∧ t.replies = s.replies := by
  rw [exec_eq_runCommand] at h
  exact runCommand_frame h

end Sys2Proof.Machine
end

