-- ==== Sys2Proof/Laws/Sha1.lean ====
section
/-! SUPPORT. What `absorb` and `finalize` do (40_sha1.md R114-R116): lengths, modes, and absorbing in pieces. -/

namespace Sys2Proof.Machine

@[simp] theorem digest_length (h : Chain) : (digest h).length = 20 := rfl
@[simp] theorem finalize_length (c : Ctx) : (finalize c).length = 20 := rfl

/-! ### One byte -/

@[simp] theorem absorbByte_mode (c : Ctx) (x : Byte) : (absorbByte c x).mode = c.mode := by
  unfold absorbByte; split <;> rfl

@[simp] theorem absorbByte_len (c : Ctx) (x : Byte) : (absorbByte c x).len = c.len := by
  unfold absorbByte; split <;> rfl

/-- One byte moves the partial block's length on by one, modulo a block. -/
theorem absorbByte_blk_length (c : Ctx) (x : Byte) (h : c.blk.length < 64) :
    (absorbByte c x).blk.length = (c.blk.length + 1) % 64 := by
  unfold absorbByte
  simp only [List.length_append, List.length_singleton, Config.shaBlock]
  split <;> simp <;> omega

/-- A byte that does not fill the block. -/
theorem absorbByte_short (c : Ctx) (x : Byte) (h : c.blk.length < 63) :
    absorbByte c x = { c with blk := c.blk ++ [x] } := by
  unfold absorbByte
  rw [if_neg]
  simp [Config.shaBlock]; omega

/-- The byte that fills the block. -/
theorem absorbByte_full (c : Ctx) (x : Byte) (h : c.blk.length = 63) :
    absorbByte c x = { c with h := compress c.h (c.blk ++ [x]), blk := [] } := by
  unfold absorbByte
  rw [if_pos]
  simp [Config.shaBlock, h]

/-- The byte count plays no part in taking a byte. -/
theorem absorbByte_with_len (c : Ctx) (x : Byte) (n : Nat) :
    absorbByte { c with len := n } x = { absorbByte c x with len := n } := by
  unfold absorbByte; split <;> rfl

theorem foldl_absorbByte_with_len (m : List Byte) (c : Ctx) (n : Nat) :
    m.foldl absorbByte { c with len := n } = { m.foldl absorbByte c with len := n } := by
  induction m generalizing c with
  | nil => rfl
  | cons x m ih => rw [List.foldl_cons, absorbByte_with_len, ih, List.foldl_cons]

@[simp] theorem foldl_absorbByte_mode (m : List Byte) (c : Ctx) : (m.foldl absorbByte c).mode = c.mode := by
  induction m generalizing c with
  | nil => rfl
  | cons x m ih => rw [List.foldl_cons, ih, absorbByte_mode]

@[simp] theorem foldl_absorbByte_len (m : List Byte) (c : Ctx) : (m.foldl absorbByte c).len = c.len := by
  induction m generalizing c with
  | nil => rfl
  | cons x m ih => rw [List.foldl_cons, ih, absorbByte_len]

theorem foldl_absorbByte_blk_length (m : List Byte) (c : Ctx) (h : c.blk.length < 64) :
    (m.foldl absorbByte c).blk.length = (c.blk.length + m.length) % 64 := by
  induction m generalizing c with
  | nil => simp [Nat.mod_eq_of_lt h]
  | cons x m ih =>
    have hx := absorbByte_blk_length c x h
    rw [List.foldl_cons, ih _ (by omega), hx, List.length_cons]
    omega

/-! ### A sequence -/

@[simp] theorem absorb_nil (c : Ctx) : absorb c [] = c := rfl

/-- `absorb` leaves the mode unchanged (40_sha1.md R114). -/
@[simp] theorem absorb_mode (c : Ctx) (m : List Byte) : (absorb c m).mode = c.mode := by simp [absorb]

@[simp] theorem absorb_len (c : Ctx) (m : List Byte) : (absorb c m).len = c.len + m.length := rfl

theorem absorb_blk_length (c : Ctx) (m : List Byte) (h : c.blk.length < 64) :
    (absorb c m).blk.length = (c.blk.length + m.length) % 64 := foldl_absorbByte_blk_length m c h

/-- Absorbing in two pieces is absorbing the whole (40_sha1.md R114, R124). -/
theorem absorb_append (c : Ctx) (m n : List Byte) : absorb c (m ++ n) = absorb (absorb c m) n := by
  simp only [absorb, List.foldl_append, foldl_absorbByte_with_len, List.length_append]
  simp [Nat.add_assoc]

/-- Bytes that do not fill the block are appended to it. -/
theorem foldl_absorbByte_short (m : List Byte) (c : Ctx) (h : c.blk.length + m.length < 64) :
    m.foldl absorbByte c = { c with blk := c.blk ++ m } := by
  induction m generalizing c with
  | nil => simp
  | cons x m ih =>
    simp only [List.length_cons] at h
    rw [List.foldl_cons, absorbByte_short c x (by omega), ih _ (by simp; omega)]
    simp

/-- Bytes that just fill the block compress it once and leave it empty. -/
theorem foldl_absorbByte_fill (m : List Byte) (c : Ctx) (hc : c.blk.length < 64) (h : c.blk.length + m.length = 64) :
    m.foldl absorbByte c = { c with h := compress c.h (c.blk ++ m), blk := [] } := by
  obtain ⟨m', x, rfl⟩ : ∃ m' x, m = m' ++ [x] := by
    have hne : m ≠ [] := by rintro rfl; simp only [List.length_nil] at h; omega
    exact ⟨m.dropLast, m.getLast hne, (List.dropLast_append_getLast hne).symm⟩
  simp only [List.length_append, List.length_singleton] at h
  rw [List.foldl_append, foldl_absorbByte_short m' c (by omega)]
  simp only [List.foldl_cons, List.foldl_nil]
  rw [absorbByte_full _ _ (by simp; omega)]
  simp

end Sys2Proof.Machine
end

