-- ==== Sys2Proof/Laws/Hmac.lean ====
section
/-! SUPPORT. Lengths in the HMAC and PBKDF2 functions (41_hmac.md R141-R145, 42_pbkdf2.md R161). -/

namespace Sys2Proof.Machine

@[simp] theorem hmacOuter_length (oks : Chain) (inner : List Byte) : (hmacOuter oks inner).length = 20 := rfl
@[simp] theorem hmacK_length (iks oks : Chain) (m : List Byte) : (hmacK iks oks m).length = 20 := rfl
@[simp] theorem hmac_length (k m : List Byte) : (hmac k m).length = 20 := rfl
@[simp] theorem sha1_length (m : List Byte) : (sha1 m).length = 20 := rfl

/-- The padded key is one block (41_hmac.md R141). -/
@[simp] theorem paddedKey_length (k : List Byte) : (paddedKey k).length = 64 := by
  unfold paddedKey padBlock
  split
  · simp; omega
  · simp

/-- The successive applications keep the 20-byte width of a block (42_pbkdf2.md R161). -/
theorem pbkdf2Loop_length (iks oks : Chain) (k : Nat) (u t : List Byte) (ht : t.length = 20) :
    (pbkdf2Loop iks oks k u t).length = 20 := by
  induction k generalizing u t with
  | zero => exact ht
  | succ k ih => exact ih _ _ (by simp [ht])

@[simp] theorem pbkdf2F_length (iks oks : Chain) (salt : List Byte) (c i : Nat) :
    (pbkdf2F iks oks salt c i).length = 20 := pbkdf2Loop_length _ _ _ _ _ (hmacK_length ..)

end Sys2Proof.Machine
end

