-- ==== Sys2Proof/Laws/PerInstr.lean ====
section
/-! SUPPORT. Per-instruction families. `EncodedFields`: the word of a command holds its opcode, its LEN and its DKLEN in
their fields, and zeros in the reserved ones (30_encoding.md R81, R86). -/

namespace Sys2Proof

/-- The fields of a word made from an opcode and two counts. -/
theorem commandWord_fields (op : Opcode) (n d : Count) :
    opcodeField (commandWord op n d) = op.byte ∧ lenField (commandWord op n d) = n ∧
    dklenField (commandWord op n d) = d ∧ rsv0Field (commandWord op n d) = 0 ∧ rsv1Field (commandWord op n d) = 0 := by
  refine ⟨?_, ?_, ?_, ?_, ?_⟩ <;>
  · apply BitVec.eq_of_getLsbD_eq
    intro i hi
    simp only [opcodeField, lenField, dklenField, rsv0Field, rsv1Field, commandWord, BitVec.getLsbD_extractLsb',
      BitVec.getLsbD_or, BitVec.getLsbD_shiftLeft, BitVec.getLsbD_setWidth]
    generalize op.byte = b
    interval_cases i <;> simp

end Sys2Proof

namespace Sys2Proof.Laws.EncodedFields

/-- The fields of a command's word are the command's. -/
def Statement (i : Instr) : Prop :=
  opcodeField (encode i) = i.opcode.byte ∧ lenField (encode i) = i.len ∧ dklenField (encode i) = i.dklen ∧
  rsv0Field (encode i) = 0 ∧ rsv1Field (encode i) = 0

theorem sha1Init : Statement .sha1Init := commandWord_fields _ _ _
theorem sha1Update (n : Count) : Statement (.sha1Update n) := commandWord_fields _ _ _
theorem sha1Final : Statement .sha1Final := commandWord_fields _ _ _
theorem sha1Oneshot (n : Count) : Statement (.sha1Oneshot n) := commandWord_fields _ _ _
theorem hmacKeyBegin : Statement .hmacKeyBegin := commandWord_fields _ _ _
theorem hmacKeyAbsorb (n : Count) : Statement (.hmacKeyAbsorb n) := commandWord_fields _ _ _
theorem hmacKeyAbsorbOut (n : Count) : Statement (.hmacKeyAbsorbOut n) := commandWord_fields _ _ _
theorem hmacKeyEnd : Statement .hmacKeyEnd := commandWord_fields _ _ _
theorem hmacInit : Statement .hmacInit := commandWord_fields _ _ _
theorem hmacUpdate (n : Count) : Statement (.hmacUpdate n) := commandWord_fields _ _ _
theorem hmacFinal : Statement .hmacFinal := commandWord_fields _ _ _
theorem hmacOneshot (n : Count) : Statement (.hmacOneshot n) := commandWord_fields _ _ _
theorem keyClear : Statement .keyClear := commandWord_fields _ _ _
theorem pbkdf2 (n d : Count) : Statement (.pbkdf2 n d) := commandWord_fields _ _ _
theorem crcInit : Statement .crcInit := commandWord_fields _ _ _
theorem crcUpdate (n : Count) : Statement (.crcUpdate n) := commandWord_fields _ _ _
theorem crcOneshot (n : Count) : Statement (.crcOneshot n) := commandWord_fields _ _ _
theorem zeroize : Statement .zeroize := commandWord_fields _ _ _

end Sys2Proof.Laws.EncodedFields
end

