-- ==== Sys2Proof/Tests/Slice0.lean ====
section
/-! SUPPORT. The model's own tests: ill-formed terms that WellFormed refuses, words written out from the spec's encoding,
one step per instruction with values from 95_test_vectors.md, and for each statement with hypotheses a state and operands
that meet them. -/

namespace Sys2Proof.Tests

open Sys2Proof Sys2Proof.Machine Sys2Proof.Claims

set_option Elab.async false

/-! ### Helpers -/

/-- A block with nothing scheduled. -/
def st (b : Block) : State := { toBlock := b, agenda := [], replies := [] }

/-- The block after the command word `w` has been issued and has completed. -/
def after (b : Block) (w : Word) : Option Block :=
  match step (st (b.issue w)) with
  | .next t => some t.toBlock
  | .fault _ => none
  | .refused _ => none

/-- STATUS after the command word `w`. -/
def statusAfter (b : Block) (w : Word) : Option Word := (after b w).map Block.statusValue

/-- A block with these bytes in `inbuf`. -/
def withIn (b : Block) (m : List Byte) : Block := { b with inbuf := padTo 64 m }

/-- A block with a SHA-1 message of `len` bytes in progress, `k` of them in the partial block. -/
def bSha (k len : Nat) : Block := { Block.reset with ctx := ⟨.sha, hInit, List.replicate k 0, len⟩ }

/-- A block while a key is loaded, with the accumulator `a`. -/
def bLoading (a : KAcc) : Block := { Block.reset with key := ⟨.loading, Chain.zero, Chain.zero, a⟩ }

/-- The key state of the key "Jefe" (41_hmac.md R149, the example). -/
def jefe : Key :=
  ⟨.ready, ⟨0x624D8EA7, 0x3F2B1803, 0x9554B9E4, 0x28C065F5, 0xA9FCB98E⟩,
    ⟨0x2088372A, 0xF50610A1, 0xF82F8B05, 0x8E4BFE32, 0x280B4E35⟩, .short []⟩

/-- A block with that key loaded, and `iter` = 1. -/
def bReady : Block := { Block.reset with key := jefe, iter := 1 }

/-- A block with that key and an HMAC message of `len` bytes in progress, `k` of them in the partial block. -/
def bHmac (k len : Nat) : Block := { bReady with ctx := ⟨.hmac, jefe.iks, List.replicate k 0, len⟩ }

/-- A long accumulator of `len` key bytes, `k` of them in the partial block. -/
def longAcc (k len : Nat) : KAcc := .long ⟨.sha, hInit, List.replicate k 0, len⟩

/-- "what do ya want for nothing?" (95_test_vectors.md section 2.4, case 2). -/
def question : List Byte :=
  [0x77, 0x68, 0x61, 0x74, 0x20, 0x64, 0x6F, 0x20, 0x79, 0x61, 0x20, 0x77, 0x61, 0x6E, 0x74, 0x20, 0x66, 0x6F, 0x72,
   0x20, 0x6E, 0x6F, 0x74, 0x68, 0x69, 0x6E, 0x67, 0x3F]

/-! ### Well-formedness (30_encoding.md R86, checks 3 and 4) -/

theorem test_ill_formed_update_len : Instr.wellFormed (.sha1Update 65) = false := by decide
theorem test_ill_formed_sha1Oneshot_len : Instr.wellFormed (.sha1Oneshot 127) = false := by decide
theorem test_ill_formed_keyAbsorb_len : Instr.wellFormed (.hmacKeyAbsorb 65) = false := by decide
theorem test_ill_formed_keyAbsorbOut_len : Instr.wellFormed (.hmacKeyAbsorbOut 80) = false := by decide
theorem test_ill_formed_hmacUpdate_len : Instr.wellFormed (.hmacUpdate 65) = false := by decide
theorem test_ill_formed_hmacOneshot_len : Instr.wellFormed (.hmacOneshot 65) = false := by decide
theorem test_ill_formed_pbkdf2_len : Instr.wellFormed (.pbkdf2 65 20) = false := by decide
theorem test_ill_formed_pbkdf2_dklen_zero : Instr.wellFormed (.pbkdf2 4 0) = false := by decide
theorem test_ill_formed_pbkdf2_dklen_large : Instr.wellFormed (.pbkdf2 4 81) = false := by decide
theorem test_ill_formed_crcUpdate_len : Instr.wellFormed (.crcUpdate 65) = false := by decide
theorem test_ill_formed_crcOneshot_len : Instr.wellFormed (.crcOneshot 65) = false := by decide
theorem test_well_formed_limits :
    Instr.wellFormed (.sha1Update 64) = true ∧ Instr.wellFormed (.pbkdf2 0 1) = true ∧
    Instr.wellFormed (.pbkdf2 64 80) = true := by decide

/-! ### Decoding: words written out from 30_encoding.md R81 and R85 -/

theorem test_decode_sha1Init : decode 0b000000000_0000000_0_0000000_00000001 = .ok .sha1Init := by rfl
theorem test_decode_sha1Update : decode 0b000000000_0000000_0_0000011_00000010 = .ok (.sha1Update 3) := by rfl
theorem test_decode_sha1Final : decode 0b000000000_0000000_0_0000000_00000011 = .ok .sha1Final := by rfl
theorem test_decode_sha1Oneshot : decode 0b000000000_0000000_0_1000000_00000100 = .ok (.sha1Oneshot 64) := by rfl
theorem test_decode_hmacKeyBegin : decode 0b000000000_0000000_0_0000000_00010000 = .ok .hmacKeyBegin := by rfl
theorem test_decode_hmacKeyAbsorb : decode 0b000000000_0000000_0_0000100_00010001 = .ok (.hmacKeyAbsorb 4) := by rfl
theorem test_decode_hmacKeyAbsorbOut : decode 0b000000000_0000000_0_0010000_00010010 = .ok (.hmacKeyAbsorbOut 16) := by
  rfl
theorem test_decode_hmacKeyEnd : decode 0b000000000_0000000_0_0000000_00010011 = .ok .hmacKeyEnd := by rfl
theorem test_decode_hmacInit : decode 0b000000000_0000000_0_0000000_00010100 = .ok .hmacInit := by rfl
theorem test_decode_hmacUpdate : decode 0b000000000_0000000_0_0011100_00010101 = .ok (.hmacUpdate 28) := by rfl
theorem test_decode_hmacFinal : decode 0b000000000_0000000_0_0000000_00010110 = .ok .hmacFinal := by rfl
theorem test_decode_hmacOneshot : decode 0b000000000_0000000_0_0011100_00010111 = .ok (.hmacOneshot 28) := by rfl
theorem test_decode_keyClear : decode 0b000000000_0000000_0_0000000_00011000 = .ok .keyClear := by rfl
theorem test_decode_pbkdf2 : decode 0b000000000_0010100_0_0000100_00100000 = .ok (.pbkdf2 4 20) := by rfl
theorem test_decode_crcInit : decode 0b000000000_0000000_0_0000000_00110000 = .ok .crcInit := by rfl
theorem test_decode_crcUpdate : decode 0b000000000_0000000_0_0110010_00110001 = .ok (.crcUpdate 50) := by rfl
theorem test_decode_crcOneshot : decode 0b000000000_0000000_0_0001001_00110010 = .ok (.crcOneshot 9) := by rfl
theorem test_decode_zeroize : decode 0b000000000_0000000_0_0000000_00111111 = .ok .zeroize := by rfl
theorem test_decode_out_of_range_len : decode 0x00004102 = .ok (.sha1Update 65) := by rfl
theorem test_decode_rsv0 : decode 0x00008004 = .error (.reservedBits .sha1Oneshot) := by rfl
theorem test_decode_rsv1 : decode 0x80000030 = .error (.reservedBits .crcInit) := by rfl
theorem test_decode_unused_len : decode 0x00000101 = .error (.reservedBits .sha1Init) := by rfl
theorem test_decode_unused_dklen : decode 0x00010002 = .error (.reservedBits .sha1Update) := by rfl
theorem test_decode_zero_word : decode 0x00000000 = .error .illegalOpcode := by rfl

/-- The rows of the opcode table are told apart by their masks and patterns (30_encoding.md R86). -/
theorem test_table_rows_disjoint :
    opcodeTable.Pairwise fun a b => a.pattern &&& b.mask ≠ b.pattern ∧ b.pattern &&& a.mask ≠ a.pattern := by decide

theorem test_decodeTableWord : decodeTableWord 32 0x00140420 = some (.pbkdf2 4 20) := by rfl

theorem test_withFetchWord : ((State.reset.withFetchWord 32 0x3F).pending, (State.reset.withFetchWord 32 0x3F).busy)
    = (0x3F, true) := by rfl

/-! ### One step per instruction (95_test_vectors.md) -/

/-- 40_sha1.md R120, the example. -/
theorem test_sha1Init : statusAfter Block.reset 0x00000001 = some 0x00010042 := by decide +kernel
/-- 95_test_vectors.md section 2.2, "after SHA1_INIT". -/
theorem test_sha1Update : statusAfter (bSha 0 0) 0x00004002 = some 0x00020042 := by decide +kernel
/-- Section 2.2, the LENGTH_OVERFLOW vector: 10 bytes fail, and 9 bring MSGLEN to 2^61 - 1. -/
theorem test_sha1Update_overflow :
    statusAfter (bSha 54 (2 ^ 61 - 10)) 0x00000A02 = some 0x00020846 ∧
    (after (bSha 54 (2 ^ 61 - 10)) 0x00000902).map (fun b => (b.readReg .msglenHi, b.readReg .msglenLo))
      = some (0x1FFFFFFF, 0xFFFFFFFF) := by decide +kernel
/-- R122, the example: the message "abc". -/
theorem test_sha1Final :
    (after { Block.reset with ctx := ⟨.sha, hInit, [0x61, 0x62, 0x63], 3⟩ } 0x00000003).map (·.readReg (.out 0))
      = some 0x363E99A9 := by decide +kernel
theorem test_sha1Final_bad_state : statusAfter Block.reset 0x00000003 = some 0x00030706 := by decide +kernel
/-- R123, the example: all five words. -/
theorem test_sha1Oneshot :
    (after (withIn Block.reset [0x61, 0x62, 0x63]) 0x00000304).map
      (fun b => (b.statusValue, List.map (fun w => b.readReg (.out w)) [0, 1, 2, 3, 4, 5]))
    = some (0x00040002, [0x363E99A9, 0x6A810647, 0x71253EBA, 0x6CC25078, 0x9DD8D09C, 0]) := by decide +kernel
/-- Section 2.3: 64 zero bytes, two padding blocks (the first word of c8d7d0ef...). -/
theorem test_sha1Oneshot_two_blocks :
    (after Block.reset 0x00004004).map (·.readReg (.out 0)) = some 0xEFD0D7C8 := by decide +kernel
/-- 41_hmac.md R146, the example, and a SHA-1 message that survives (section 2.2). -/
theorem test_hmacKeyBegin :
    statusAfter Block.reset 0x00000010 = some 0x00100022 ∧ statusAfter (bSha 0 0) 0x00000010 = some 0x00100062 := by
  decide +kernel
theorem test_hmacKeyBegin_bad_state : statusAfter (bHmac 0 64) 0x00000010 = some 0x00100796 := by decide +kernel
/-- R147, the example: the key "Jefe". -/
theorem test_hmacKeyAbsorb :
    (after (withIn (bLoading (.short [])) [0x4A, 0x65, 0x66, 0x65]) 0x00000411).map
      (fun b => (b.key.kacc, b.readReg (.inbuf 0))) = some (.short [0x4A, 0x65, 0x66, 0x65], 0) := by decide +kernel
/-- Section 2.2: a failed key absorb zeroes `inbuf` too. -/
theorem test_hmacKeyAbsorb_fails :
    (after (withIn Block.reset [0x44, 0x33, 0x22, 0x11]) 0x00000011).map
      (fun b => (b.statusValue, b.readReg (.inbuf 0))) = some (0x00110706, 0) := by decide +kernel
/-- Section 2.2: a failed key absorb from `out` zeroes `out`. -/
theorem test_hmacKeyAbsorbOut_fails :
    (after { bReady with out := padTo 80 [0xAB] } 0x00000012).map
      (fun b => (b.statusValue, b.readReg (.out 0))) = some (0x00120716, 0) := by decide +kernel
theorem test_hmacKeyAbsorbOut :
    (after { bLoading (.short [0x4A]) with out := padTo 80 [0x65, 0x66, 0x65] } 0x00000312).map
      (fun b => (b.key.kacc, b.readReg (.out 0))) = some (.short [0x4A, 0x65, 0x66, 0x65], 0) := by decide +kernel
/-- R149, the example. -/
theorem test_hmacKeyEnd :
    (after (bLoading (.short [0x4A, 0x65, 0x66, 0x65])) 0x00000013).map (·.key) = some jefe := by decide +kernel
/-- R150, the example. -/
theorem test_hmacInit :
    (after bReady 0x00000014).map (fun b => (b.statusValue, b.readReg .msglenLo)) = some (0x00140092, 64) := by
  decide +kernel
/-- R151, the example. -/
theorem test_hmacUpdate :
    (after (withIn (bHmac 0 64) question) 0x00001C15).map (·.readReg .msglenLo) = some 92 := by decide +kernel
/-- R152, the example's digest effcdf6a..., in the lanes of R53; program P3 reads this word (log 17). -/
theorem test_hmacFinal :
    (after { bReady with ctx := ⟨.hmac, jefe.iks, question, 92⟩ } 0x00000016).map (·.readReg (.out 0))
      = some 0x6ADFFCEF := by decide +kernel
/-- R153, the example's digest effcdf6a..., in the lanes of R53; program P3 reads this word (log 17). -/
theorem test_hmacOneshot :
    (after (withIn bReady question) 0x00001C17).map (·.readReg (.out 0)) = some 0x6ADFFCEF := by decide +kernel
theorem test_hmacOneshot_bad_len : statusAfter (bHmac 0 64) 0x00004117 = some 0x00170396 := by decide +kernel
/-- R154, the example, and a SHA-1 message that survives (section 2.7). -/
theorem test_keyClear :
    statusAfter (bHmac 0 64) 0x00000018 = some 0x00180002 ∧
    statusAfter { bReady with ctx := ctxSha0 } 0x00000018 = some 0x00180042 := by decide +kernel
/-- Section 2.2: an empty salt under the key "Jefe". -/
theorem test_pbkdf2 :
    (after bReady 0x00140020).map (fun b => (b.statusValue, b.readReg (.out 0), b.readReg (.out 5)))
      = some (0x00200012, 0x2850CC2B, 0) := by decide +kernel
/-- Section 2.2: the order of PBKDF2's errors. -/
theorem test_pbkdf2_errors :
    statusAfter Block.reset 0x00510020 = some 0x00200406 ∧ statusAfter Block.reset 0x00500020 = some 0x00200506 ∧
    statusAfter { Block.reset with iter := 1 } 0x00504120 = some 0x00200306 ∧
    statusAfter { Block.reset with iter := 1 } 0x00140020 = some 0x00200606 ∧
    statusAfter { bReady with ctx := ctxSha0 } 0x00140020 = some 0x00200756 := by decide +kernel
/-- 43_crc16.md R173, the example. -/
theorem test_crcInit :
    (after { Block.reset with crc := 0x1234 } 0x00000030).map (·.readReg .crc) = some 0x0000FFFF := by decide +kernel
/-- R174, the example's second piece, from the CRC of "12345". -/
theorem test_crcUpdate :
    (after (withIn { Block.reset with crc := crc16 [0x31, 0x32, 0x33, 0x34, 0x35] } [0x36, 0x37, 0x38, 0x39])
      0x00000431).map (·.readReg .crc) = some 0x906E6F91 := by decide +kernel
/-- R175, the example. -/
theorem test_crcOneshot : (after Block.reset 0x00000132).map (·.readReg .crc) = some 0xF0780F87 := by decide +kernel
theorem test_crcOneshot_bad_len : statusAfter Block.reset 0x00004131 = some 0x00310306 := by decide +kernel
/-- 44_system.md R190, the example. -/
theorem test_zeroize :
    (after { withIn (bHmac 0 64) question with out := padTo 80 [0xAB] } 0x0000003F).map
      (fun b => (b.statusValue, b.readReg (.inbuf 0), b.readReg (.out 0), b.key == Key.key0, b.iter))
    = some (0x003F0002, 0, 0, true, 1) := by decide +kernel
/-- Section 2.2: illegal opcodes. -/
theorem test_illegal_opcodes :
    statusAfter Block.reset 0x00000000 = some 0x00000106 ∧ statusAfter Block.reset 0x0000003E = some 0x003E0106 ∧
    statusAfter Block.reset 0x80000030 = some 0x00300206 := by decide +kernel

/-! ### The window, the interrupt and the agents (95_test_vectors.md sections 2.1 and 2.7) -/

/-- A command pending: gated reads, and a write that is dropped. -/
theorem test_busy_window :
    let b := (withIn { Block.reset with iter := 7 } [0x61, 0x62, 0x63]).issue 0x00000304
    (b.readReg (regAt 0x0C), b.readReg (regAt 0x40), b.readReg (regAt 0x18), b.readReg (regAt 0x14)) = (0x00040001, 0, 0, 7) ∧
    ((b.access (.write 0x14 4 9)).2.statusValue, (b.access (.write 0x14 4 9)).2.iter) = (0x00040009, 7) := by
  decide +kernel

theorem test_bus_error :
    Block.reset.access (.write 0x40 2 0x1234) = (.busError 0x40, Block.reset) ∧
    Block.reset.access (.read 0x02 4) = (.busError 0x02, Block.reset) := by decide +kernel

/-- SRST wins over IRQ_EN. -/
theorem test_soft_reset :
    ((withIn { Block.reset with iter := 3, irqEn := true } [0xDD, 0xCC]).issue 0x32).writeReg .ctrl 3 = Block.reset := by
  decide +kernel

theorem test_irq_on_completion : (after { Block.reset with irqEn := true } 0x00000101).map Block.irq = some true := by
  decide +kernel

theorem test_ldin_assembles :
    assembleProgram 0 [.ldin [0x61, 0x62, 0x63], .run .sha1Oneshot (some 3) none]
      = some [.access (.write 0x40 4 0x00636261), .access (.write 0x10 4 0x00000304), .wait 0] := by decide +kernel

theorem test_assembler_refuses :
    assembleCmd .sha1Init (some 1) none = none ∧ assembleCmd .sha1Update (some 65) none = none ∧
    assembleCmd .pbkdf2 (some 4) (some 81) = none ∧ assembleCmd .pbkdf2 (some 4) none = none := by decide

/-! ### The hypotheses of the statements are met

One theorem for each statement with hypotheses, named after it, with a state and operands for each of its clauses, at
the boundaries of their ranges. -/

theorem test_witness_EncodeRebuildsDecodedWord : decode 0x00504020 = .ok (.pbkdf2 64 80) := by rfl

theorem test_witness_WellFormedWordsFailNoCheck :
    (∃ i, decode 0x00014020 = .ok i ∧ i.opcode = .pbkdf2) ∧
    (∃ i, decode 0x00007F31 = .ok i ∧ i.opcode ≠ .pbkdf2 ∧ i.opcode.usesLen = true) ∧
    (∃ i, decode 0x0000003F = .ok i ∧ i.opcode ≠ .pbkdf2 ∧ ¬ i.opcode.usesLen = true) :=
  ⟨⟨_, rfl, by decide⟩, ⟨_, rfl, by decide, by decide⟩, ⟨_, rfl, by decide, by decide⟩⟩

theorem test_witness_IllegalAndReservedWordsFail :
    (∀ op ∈ [0x00, 0x05, 0x0F, 0x19, 0x1F, 0x21, 0x2F, 0x33, 0x3E, 0x40, 0xFF],
      let op := wordOp (st (Block.reset.issue (BitVec.ofNat 32 op))).pending
      op = 0x00 ∨ (0x05 ≤ op ∧ op ≤ 0x0F) ∨ (0x19 ≤ op ∧ op ≤ 0x1F) ∨ (0x21 ≤ op ∧ op ≤ 0x2F)
        ∨ (0x33 ≤ op ∧ op ≤ 0x3E) ∨ 0x40 ≤ op) ∧
    (∀ w ∈ [0x00008004, 0x0080003F, 0x80000001],
      let v := (st (Block.reset.issue (BitVec.ofNat 32 w))).pending
      wordOp v ∈ opcodes ∧ (wordRsv0 v ≠ 0 ∨ wordRsv1 v ≠ 0)) := by
  decide +kernel

theorem test_witness_AssembledCommandsAreWellFormed :
    assembleCmd .pbkdf2 (some 64) (some 80) = some 0x00504020 ∧ assembleCmd .pbkdf2 none (some 1) = some 0x00010020 ∧
    assembleCmd .sha1Update (some 0) none = some 0x00000002 ∧ assembleCmd .zeroize none none = some 0x0000003F := by
  decide

theorem test_witness_StepRunsDecodedCommand :
    let b := Block.reset.issue 0x00000304
    ((st b).busy = true ∧ (st b).agenda = [] ∧ decode (st b).pending = .ok (.sha1Oneshot 3)) ∧
    ({ st b with agenda := [.engine] } : State).agenda = .engine :: [] ∧ decode 0x00000304 = .ok (.sha1Oneshot 3) :=
  ⟨⟨rfl, rfl, rfl⟩, rfl, rfl⟩

theorem test_witness_CompletionReportsFirstFailingCheck :
    ({ st (Block.reset.issue 0x00504120) with agenda := [.engine] } : State).busy = true ∧
    ({ st (Block.reset.issue 0x00504120) with agenda := [.engine] } : State).agenda = .engine :: [] := ⟨rfl, rfl⟩

/-- Each of the eight codes is some word's, on some block. -/
theorem test_witness_FailedCommandChangesOnlyStatus :
    validate 0x00 Block.reset = 1 ∧ validate 0x00008011 Block.reset = 2 ∧ validate 0x00004112 Block.reset = 3 ∧
    validate 0x00510020 Block.reset = 4 ∧ validate 0x00500020 Block.reset = 5 ∧ validate 0x17 Block.reset = 6 ∧
    validate 0x11 Block.reset = 7 ∧ validate 0x00000A02 (bSha 54 (2 ^ 61 - 10)) = 8 := by decide +kernel

theorem test_witness_StepKeepsBlockInvariants :
    (st (Block.reset.issue 0x3F)).toBlock.Inv ∧ ∃ t, step (st (Block.reset.issue 0x3F)) = .next t :=
  ⟨⟨fun _ => rfl, fun h => absurd rfl h, fun h => by simp [st, Block.issue, Block.reset, Ctx.idle0] at h, fun _ => rfl,
    fun h => by simp [st, Block.issue, Block.reset, Key.key0] at h, fun _ => rfl, Nat.zero_le _,
    fun h => by simp [st, Block.issue] at h, by simp [st, Block.issue]⟩, ⟨_, rfl⟩⟩

theorem test_witness_StepKeepsCompletionInvariants :
    (st (Block.reset.issue 0x3F)).toBlock.Inv ∧ (st (Block.reset.issue 0x3F)).toBlock.InvMore ∧
    ∃ t, step (st (Block.reset.issue 0x3F)) = .next t :=
  ⟨test_witness_StepKeepsBlockInvariants.1, ⟨fun _ => ⟨rfl, rfl⟩, by decide, trivial⟩,
    test_witness_StepKeepsBlockInvariants.2⟩

theorem test_witness_CtrlRegisterEnablesOrResets :
    (0x00000002 : Word).getLsbD 0 = false ∧ (0x00000003 : Word).getLsbD 0 = true := by decide +kernel

/-- `CmdRegisterIssues`, `IterRegisterHoldsCount` and `CrcRegisterShowsBothForms`: an idle block and a busy one. -/
theorem test_witness_idle_and_busy :
    (st Block.reset).busy = false ∧ (st (Block.reset.issue 0)).busy = true := ⟨rfl, rfl⟩

theorem test_witness_MsglenRegistersShowByteCount :
    ((st (bSha 63 (2 ^ 61 - 1))).busy = false ∧ (st (bSha 63 (2 ^ 61 - 1))).ctx.mode ≠ .idle) ∧
    ((st ((bSha 0 0).issue 0)).busy = true ∨ (st ((bSha 0 0).issue 0)).ctx.mode = .idle) ∧
    ((st Block.reset).busy = true ∨ (st Block.reset).ctx.mode = .idle) :=
  ⟨⟨rfl, by decide⟩, .inl rfl, .inr rfl⟩

/-- The first and the last word of `inbuf`. -/
theorem test_witness_InbufRegistersReadAndWriteLanes :
    (0x40 : Offset).toNat = 0x40 + 4 * (0 : Fin 16).val ∧ (0x7C : Offset).toNat = 0x40 + 4 * (15 : Fin 16).val ∧
    (st Block.reset).busy = false ∧ (st (Block.reset.issue 0)).busy = true := by decide +kernel

/-- The first and the last word of `out`. -/
theorem test_witness_OutRegistersReadLanes :
    (0x80 : Offset).toNat = 0x80 + 4 * (0 : Fin 20).val ∧ (0xCC : Offset).toNat = 0x80 + 4 * (19 : Fin 20).val ∧
    (st Block.reset).busy = false ∧ (st (Block.reset.issue 0)).busy = true := by decide +kernel

theorem test_witness_ReservedAndReadOnlyWritesIgnored :
    (∀ off ∈ ([0x24, 0x3C, 0xD0, 0xFC] : List Offset), off.toNat % 4 = 0 ∧ reservedOffset off = true) ∧
    (∀ off ∈ ([0x00, 0x04, 0x18, 0x1C, 0x20, 0x80, 0xCC] : List Offset),
      off.toNat % 4 = 0 ∧ readOnlyOffset off = true) ∧
    (∀ off ∈ ([0x08, 0x0C, 0x10, 0x14, 0x40, 0x7C] : List Offset),
      reservedOffset off = false ∧ readOnlyOffset off = false) := by decide +kernel

theorem test_witness_IllegalAccessGetsBusError :
    ((0 : Nat) ≠ 4 ∨ (0x40 : Offset).toNat % 4 ≠ 0) ∧ ((8 : Nat) ≠ 4 ∨ (0x40 : Offset).toNat % 4 ≠ 0) ∧
    ((4 : Nat) ≠ 4 ∨ (0x41 : Offset).toNat % 4 ≠ 0) ∧ ((4 : Nat) ≠ 4 ∨ (0xFF : Offset).toNat % 4 ≠ 0) := by decide +kernel

theorem test_witness_ResetTakesResetValues :
    Event.reset = .reset ∧ (∃ a p, Event.resetOverlap (.write 0x10 4 0x3F) true = .resetOverlap a p) ∧
    (∃ a p, Event.resetOverlap (.read 0x0C 4) false = .resetOverlap a p) ∧
    (∃ v : Word, v.getLsbD 0 = true ∧ Event.access (.write 0x08 4 3) = .access (.write 0x08 4 v)) :=
  ⟨rfl, ⟨_, _, rfl⟩, ⟨_, _, rfl⟩, ⟨3, by decide, rfl⟩⟩

theorem test_witness_SoftResetEqualsResetInput :
    (0x00000001 : Word).getLsbD 0 = true ∧ (0xFFFFFFFF : Word).getLsbD 0 = true := by decide +kernel

theorem test_witness_IrqFollowsCompletion :
    (∃ t, engineStep (st (Block.reset.issue 0x3F)) = .next t) ∧
    ((0x00000002 : Word).getLsbD 1 = true ∧
      ∃ t, step { st Block.reset with agenda := .access (.write 0x0C 4 0x00000002) :: [] } = .next t) ∧
    ((st Block.reset).busy = false ∧
      ∃ t, step { st Block.reset with agenda := .access (.write 0x10 4 0x3F) :: [] } = .next t) ∧
    (∃ t, step { st Block.reset with agenda := .reset :: [] } = .next t) ∧
    ((0x00000000 : Word).getLsbD 1 = false ∧
      ∃ t, step { st Block.reset with agenda := .access (.write 0x08 4 0) :: [] } = .next t) :=
  ⟨⟨_, rfl⟩, ⟨by decide, _, rfl⟩, ⟨rfl, _, rfl⟩, ⟨_, rfl⟩, ⟨by decide, _, rfl⟩⟩

theorem test_witness_IdleBlockHoldsState :
    (st Block.reset).busy = false ∧ (st Block.reset).agenda = [] ∧
    ({ st Block.reset with agenda := [.engine] } : State).agenda = .engine :: [] := ⟨rfl, rfl, rfl⟩

theorem test_witness_PendingOperandsStayFixed :
    (st (Block.reset.issue 0x304)).busy = true ∧ isSoftReset (.write 0x40 4 0xFFFFFFFF) = false ∧
    isSoftReset (.write 0x08 4 2) = false ∧ isSoftReset (.write 0x08 1 1) = false ∧
    ∃ t, step { st (Block.reset.issue 0x304) with agenda := .access (.write 0x40 4 0xFFFFFFFF) :: [] } = .next t :=
  ⟨rfl, by decide, by decide, by decide, _, rfl⟩

theorem test_witness_PendingCommandCompletes :
    let s : State := { st (Block.reset.issue 0x304) with agenda := [.access (.read 0x0C 4), .wait 3, .engine] }
    s.busy = true ∧ (∀ e ∈ s.agenda, e.leavesCommand = true) ∧ scheduleLength s.agenda = 7 := by decide +kernel

/-- Two blocks that hold different keys. -/
theorem test_witness_RegistersHideSecrets :
    Block.SameVisible { bReady with key := { jefe with iks := hInit } } bReady ∧
    { jefe with iks := hInit } ≠ jefe :=
  ⟨⟨rfl, rfl, rfl, rfl, rfl, rfl, rfl, rfl, rfl, rfl, rfl, rfl, rfl, rfl⟩, by decide⟩

theorem test_witness_ReadyKeyLifetime :
    (st bReady).key.kmode = .ready ∧ (∃ t, exec .hmacInit (st bReady) = .next t) ∧ Instr.hmacInit ≠ .hmacKeyBegin ∧
    Instr.hmacInit ≠ .keyClear ∧ Instr.hmacInit ≠ .zeroize := ⟨rfl, ⟨_, rfl⟩, by decide, by decide, by decide⟩

theorem test_witness_ScheduleFollowsRecurrence :
    (0 < 16 ∧ 15 < 16) ∧ (16 ≤ 16 ∧ 16 < 80) ∧ (16 ≤ 79 ∧ 79 < 80) := by decide

theorem test_witness_Sha1IsMerkleDamgard :
    ∀ n ∈ [0, 55, 56, 63, 64, 119, 120], (List.replicate n (0 : Byte)).length ≤ 2 ^ 61 - 1 := by decide +kernel

/-- The boundaries of one padding block and of two. -/
theorem test_witness_FinalizePadsToBlockBoundary :
    ((bSha 0 0).ctx.blk.length < 64 ∧ (bSha 0 0).ctx.blk.length ≤ 55) ∧
    ((bSha 55 55).ctx.blk.length < 64 ∧ (bSha 55 55).ctx.blk.length ≤ 55) ∧
    ((bSha 56 56).ctx.blk.length < 64 ∧ 56 ≤ (bSha 56 56).ctx.blk.length) ∧
    ((bSha 63 63).ctx.blk.length < 64 ∧ 56 ≤ (bSha 63 63).ctx.blk.length) := by decide +kernel

/-- The clause `RefusesReservedBits` of every command's statement: each opcode has words with a 1 in a reserved or unused
bit, at the ends of those fields. -/
theorem test_witness_RefusesReservedBits :
    (∀ op ∈ [0x01, 0x03, 0x10, 0x13, 0x14, 0x16, 0x18, 0x30, 0x3F], ∀ k ∈ [8, 15, 16, 31],
      let v := (st (Block.reset.issue (BitVec.ofNat 32 (op + 2 ^ k)))).pending
      v &&& 0xFF = BitVec.ofNat 32 op ∧ v &&& 0xFFFFFF00 ≠ 0) ∧
    (∀ op ∈ [0x02, 0x04, 0x11, 0x12, 0x15, 0x17, 0x31, 0x32], ∀ k ∈ [15, 16, 22, 31],
      let v := (st (Block.reset.issue (BitVec.ofNat 32 (op + 2 ^ k)))).pending
      v &&& 0xFF = BitVec.ofNat 32 op ∧ v &&& 0xFFFF8000 ≠ 0) ∧
    (∀ k ∈ [15, 23, 31],
      let v := (st (Block.reset.issue (BitVec.ofNat 32 (0x20 + 2 ^ k)))).pending
      v &&& 0xFF = 0x20 ∧ v &&& 0xFF808000 ≠ 0) := by decide +kernel

/-- Its four clauses: the largest count that fits, LEN 65, an idle context, and one byte too many. -/
theorem test_witness_Sha1UpdateAbsorbs :
    ((64 : Count).toNat ≤ 64 ∧ (st (bSha 63 (2 ^ 61 - 65))).ctx.mode = .sha ∧
      (st (bSha 63 (2 ^ 61 - 65))).ctx.blk.length < 64 ∧
      (st (bSha 63 (2 ^ 61 - 65))).ctx.len + (64 : Count).toNat ≤ 2 ^ 61 - 1) ∧
    64 < (65 : Count).toNat ∧
    ((0 : Count).toNat ≤ 64 ∧ (st Block.reset).ctx.mode ≠ .sha ∧ (st (bHmac 0 64)).ctx.mode ≠ .sha) ∧
    ((10 : Count).toNat ≤ 64 ∧ (st (bSha 54 (2 ^ 61 - 10))).ctx.mode = .sha ∧
      2 ^ 61 - 1 < (st (bSha 54 (2 ^ 61 - 10))).ctx.len + (10 : Count).toNat) := by decide +kernel

theorem test_witness_Sha1FinalOutputsDigest :
    (st (bSha 0 0)).ctx.mode = .sha ∧ (st Block.reset).ctx.mode ≠ .sha ∧ (st (bHmac 0 64)).ctx.mode ≠ .sha := by decide +kernel

/-- `Sha1OneshotOutputsDigest` and `CrcCommandsComputeCrc`: the ends of LEN's legal range, and of the illegal one. -/
theorem test_witness_len_clauses :
    (0 : Count).toNat ≤ 64 ∧ (64 : Count).toNat ≤ 64 ∧ 64 < (65 : Count).toNat ∧ 64 < (127 : Count).toNat := by decide +kernel

/-- Three pieces: an empty one, and two that make 128 bytes. -/
theorem test_witness_Sha1SplittingKeepsDigest :
    let b : Vector Byte 64 := Vector.replicate 64 0x61
    (∀ p ∈ ([(b, 0), (b, 64), (b, 64)] : List Piece), p.2.toNat ≤ 64) ∧
    (message [(b, 0), (b, 64), (b, 64)]).length ≤ 2 ^ 61 - 1 ∧ (64 : Count).toNat ≤ 64 := by decide +kernel

theorem test_witness_HmacKeyBeginStartsEmptyKey :
    (st Block.reset).ctx.mode ≠ .hmac ∧ (st (bSha 0 0)).ctx.mode ≠ .hmac ∧ (st (bHmac 0 64)).ctx.mode = .hmac := by decide +kernel

/-- A short key that is full, a long key up to the limit, and the three errors. -/
theorem test_witness_HmacKeyAbsorbAppends :
    ((64 : Count).toNat ≤ 64 ∧ (st (bLoading (.short (List.replicate 64 0)))).key.kmode = .loading ∧
      klen (st (bLoading (.short (List.replicate 64 0)))).key.kacc + (64 : Count).toNat ≤ 2 ^ 61 - 1) ∧
    ((64 : Count).toNat ≤ 64 ∧ (st (bLoading (longAcc 63 (2 ^ 61 - 65)))).key.kmode = .loading ∧
      klen (st (bLoading (longAcc 63 (2 ^ 61 - 65)))).key.kacc + (64 : Count).toNat ≤ 2 ^ 61 - 1) ∧
    64 < (65 : Count).toNat ∧
    ((0 : Count).toNat ≤ 64 ∧ (st Block.reset).key.kmode ≠ .loading ∧ (st bReady).key.kmode ≠ .loading) ∧
    ((64 : Count).toNat ≤ 64 ∧ (st (bLoading (longAcc 0 (2 ^ 61 - 64)))).key.kmode = .loading ∧
      2 ^ 61 - 1 < klen (st (bLoading (longAcc 0 (2 ^ 61 - 64)))).key.kacc + (64 : Count).toNat) := by decide +kernel

/-- The same clauses, with `out` the source. -/
theorem test_witness_HmacKeyAbsorbOutAppends :
    (∃ n : Count, n.toNat = 64 ∧ (st (bLoading (longAcc 63 (2 ^ 61 - 65)))).key.kmode = .loading ∧
      klen (st (bLoading (longAcc 63 (2 ^ 61 - 65)))).key.kacc + n.toNat ≤ 2 ^ 61 - 1) ∧
    64 < (65 : Count).toNat ∧ ((0 : Count).toNat ≤ 64 ∧ (st bReady).key.kmode ≠ .loading) ∧
    ((64 : Count).toNat ≤ 64 ∧ (st (bLoading (longAcc 0 (2 ^ 61 - 64)))).key.kmode = .loading ∧
      2 ^ 61 - 1 < klen (st (bLoading (longAcc 0 (2 ^ 61 - 64)))).key.kacc + (64 : Count).toNat) :=
  ⟨⟨64, by decide, by decide, by decide⟩, by decide, by decide, by decide⟩

/-- `HmacKeyEndPrecomputesKeyState` and `HmacInitStartsMessage`: a key loading, one ready, and none. -/
theorem test_witness_key_modes :
    (st (bLoading (.short []))).key.kmode = .loading ∧ (st (bLoading (longAcc 1 65))).key.kmode = .loading ∧
    (st bReady).key.kmode ≠ .loading ∧ (st bReady).key.kmode = .ready ∧
    (st (bLoading (.short []))).key.kmode ≠ .ready ∧ (st Block.reset).key.kmode ≠ .ready := by decide +kernel

theorem test_witness_HmacUpdateAbsorbs :
    ((64 : Count).toNat ≤ 64 ∧ (st (bHmac 63 (2 ^ 61 - 65))).ctx.mode = .hmac ∧
      (st (bHmac 63 (2 ^ 61 - 65))).ctx.blk.length < 64 ∧
      (st (bHmac 63 (2 ^ 61 - 65))).ctx.len + (64 : Count).toNat ≤ 2 ^ 61 - 1) ∧
    64 < (65 : Count).toNat ∧
    ((0 : Count).toNat ≤ 64 ∧ (st Block.reset).ctx.mode ≠ .hmac ∧ (st (bSha 0 0)).ctx.mode ≠ .hmac) ∧
    ((10 : Count).toNat ≤ 64 ∧ (st (bHmac 54 (2 ^ 61 - 10))).ctx.mode = .hmac ∧
      2 ^ 61 - 1 < (st (bHmac 54 (2 ^ 61 - 10))).ctx.len + (10 : Count).toNat) := by decide +kernel

theorem test_witness_HmacFinalOutputsTag :
    (st (bHmac 0 64)).ctx.mode = .hmac ∧ (st (bSha 0 0)).ctx.mode ≠ .hmac ∧ (st Block.reset).ctx.mode ≠ .hmac := by decide +kernel

theorem test_witness_HmacOneshotOutputsTag :
    ((64 : Count).toNat ≤ 64 ∧ (st bReady).key.kmode = .ready) ∧ 64 < (65 : Count).toNat ∧
    ((0 : Count).toNat ≤ 64 ∧ (st Block.reset).key.kmode ≠ .ready) := by decide +kernel

theorem test_witness_KeyClearZeroizesKey :
    (st (bHmac 0 64)).ctx.mode = .hmac ∧ (st (bSha 0 0)).ctx.mode ≠ .hmac := by decide +kernel

/-- A key of 65 bytes in two pieces, one of each kind; a message of 128 bytes under the key state of a loaded key. -/
theorem test_witness_HmacSequencesComputeHmac :
    let ks : List KeyPiece := [.fromIn (Vector.replicate 64 0x61) 64, .fromOut (Vector.replicate 80 0x62) 1]
    let ms : List Piece := [(Vector.replicate 64 0x61, 64), (Vector.replicate 64 0x61, 64)]
    ((st (bSha 0 0)).ctx.mode ≠ .hmac ∧ (∀ p ∈ ks, p.count.toNat ≤ 64) ∧ (keyOf ks).length ≤ 2 ^ 61 - 1) ∧
    ((st { Block.reset with key := readyKey (keyOf ks) }).key = readyKey (keyOf ks) ∧
      (∀ p ∈ ms, p.2.toNat ≤ 64) ∧ (message ms).length ≤ 2 ^ 61 - 65) ∧ (64 : Count).toNat ≤ 64 :=
  ⟨by decide +kernel, ⟨rfl, by decide +kernel, by decide +kernel⟩, by decide⟩

/-- Its clauses: both ends of LEN and DKLEN, and each of the five errors. -/
theorem test_witness_Pbkdf2OutputsDerivedKey :
    ((0 : Count).toNat ≤ 64 ∧ 1 ≤ (1 : Count).toNat ∧ (1 : Count).toNat ≤ 80 ∧ (st bReady).iter ≠ 0 ∧
      (st bReady).key.kmode = .ready ∧ (st bReady).ctx.mode = .idle) ∧
    ((64 : Count).toNat ≤ 64 ∧ 1 ≤ (80 : Count).toNat ∧ (80 : Count).toNat ≤ 80 ∧ (st bReady).iter ≠ 0 ∧
      (st bReady).key.kmode = .ready ∧ (st bReady).ctx.mode = .idle) ∧
    64 < (65 : Count).toNat ∧
    ((64 : Count).toNat ≤ 64 ∧ ((0 : Count).toNat = 0 ∨ 80 < (0 : Count).toNat)) ∧
    ((64 : Count).toNat ≤ 64 ∧ ((81 : Count).toNat = 0 ∨ 80 < (81 : Count).toNat)) ∧
    ((64 : Count).toNat ≤ 64 ∧ 1 ≤ (80 : Count).toNat ∧ (80 : Count).toNat ≤ 80 ∧ (st Block.reset).iter = 0) ∧
    ((64 : Count).toNat ≤ 64 ∧ 1 ≤ (80 : Count).toNat ∧ (80 : Count).toNat ≤ 80 ∧
      (st { Block.reset with iter := 1 }).iter ≠ 0 ∧ (st { Block.reset with iter := 1 }).key.kmode ≠ .ready) ∧
    ((64 : Count).toNat ≤ 64 ∧ 1 ≤ (80 : Count).toNat ∧ (80 : Count).toNat ≤ 80 ∧ (st (bHmac 0 64)).iter ≠ 0 ∧
      (st (bHmac 0 64)).key.kmode = .ready ∧ (st (bHmac 0 64)).ctx.mode ≠ .idle) := by decide +kernel

theorem test_witness_Pbkdf2ShorterIsPrefix :
    (64 : Count).toNat ≤ 64 ∧ 1 ≤ (1 : Count).toNat ∧ (1 : Count).toNat ≤ (80 : Count).toNat ∧ (80 : Count).toNat ≤ 80 ∧
    (st bReady).iter ≠ 0 ∧ (st bReady).key.kmode = .ready ∧ (st bReady).ctx.mode = .idle := by decide +kernel

theorem test_witness_Pbkdf2ChainsIntoHmac :
    (64 : Count).toNat ≤ 64 ∧ 1 ≤ (64 : Count).toNat ∧ (64 : Count).toNat ≤ 64 ∧ (st bReady).iter ≠ 0 ∧
    (st bReady).key.kmode = .ready ∧ (st bReady).ctx.mode = .idle := by decide +kernel

theorem test_witness_CrcPiecesGiveWholeCrc :
    let p : Piece := (Vector.replicate 64 0x61, 64)
    p.2.toNat ≤ 64 ∧ ∀ q ∈ [p, p], q.2.toNat ≤ 64 := by decide +kernel

theorem test_witness_CrcAffineLaw : ([0x61, 0x62, 0x63] : List Byte).length = ([0x01, 0x02, 0x03] : List Byte).length := by
  rfl

/-- Two states that differ in what may hold a secret. -/
theorem test_witness_ZeroizeForgetsSecrets :
    let s := st bReady
    let u := st { withIn (bHmac 0 64) question with out := padTo 80 [0xAB] }
    s.crc = u.crc ∧ s.iter = u.iter ∧ s.irqEn = u.irqEn ∧ s.wdrop = u.wdrop ∧ s.lastop = u.lastop ∧
    s.agenda = u.agenda ∧ s.replies = u.replies ∧ s.ctx ≠ u.ctx ∧ ∃ t, exec .zeroize s = .next t :=
  ⟨rfl, rfl, rfl, rfl, rfl, rfl, rfl, by decide, _, rfl⟩

end Sys2Proof.Tests
end

section
/-! SHA-1 as a Merkle–Damgård construction (00_scope.md R2, 40_sha1.md R114-R117): the chaining value of an absorbed
sequence is the compression folded over its whole blocks, and the padding of a hashed message ends its last block. -/

namespace Sys2Proof.Claims

open Sys2Proof Sys2Proof.Machine

/-! ### Block-wise chaining -/

/-- A sequence shorter than a block has no whole block. -/
theorem chainBlocks_short (h : Chain) (m : List Byte) (hm : m.length < 64) : chainBlocks h m = h := by
  simp [chainBlocks, Nat.div_eq_of_lt hm]

/-- The first whole block is compressed first. -/
theorem chainBlocks_block_append (h : Chain) (b m : List Byte) (hb : b.length = 64) :
    chainBlocks h (b ++ m) = chainBlocks (compress h b) m := by
  have hcount : (b ++ m).length / 64 = m.length / 64 + 1 := by rw [List.length_append, hb]; omega
  have hfirst : ((b ++ m).drop (64 * 0)).take 64 = b := List.take_left' hb
  have hrest (i : Nat) : (b ++ m).drop (64 * (i + 1)) = m.drop (64 * i) := by
    rw [Nat.mul_succ, Nat.add_comm, ← List.drop_drop, List.drop_left' hb]
  simp only [chainBlocks, hcount, List.range_succ_eq_map, List.foldl_cons, List.foldl_map, hfirst, Nat.succ_eq_add_one,
    hrest]

/-- Absorbing from an empty partial block, byte by byte, chains the compression over the whole blocks. -/
theorem foldl_absorbByte_h_eq_chainBlocks (m : List Byte) (c : Ctx) (hc : c.blk = []) :
    (m.foldl absorbByte c).h = chainBlocks c.h m := by
  rcases Nat.lt_or_ge m.length 64 with hshort | hlong
  · rw [foldl_absorbByte_short m c (by simpa [hc] using hshort), chainBlocks_short _ _ hshort]
  · have hfirst : (m.take 64).length = 64 := List.length_take_of_le hlong
    have hblock : (m.take 64).foldl absorbByte c = { c with h := compress c.h (m.take 64), blk := [] } := by
      rw [foldl_absorbByte_fill _ c (by simp [hc]) (by simpa [hc] using hfirst), hc, List.nil_append]
    calc (m.foldl absorbByte c).h
        = ((m.drop 64).foldl absorbByte ((m.take 64).foldl absorbByte c)).h := by
          rw [← List.foldl_append, List.take_append_drop]
      _ = chainBlocks (compress c.h (m.take 64)) (m.drop 64) := by
          rw [hblock, foldl_absorbByte_h_eq_chainBlocks _ _ rfl]
      _ = chainBlocks c.h m := by rw [← chainBlocks_block_append _ _ _ hfirst, List.take_append_drop]
termination_by m.length
decreasing_by simp only [List.length_drop]; omega

theorem absorb_h_eq_chainBlocks (c : Ctx) (m : List Byte) (hc : c.blk = []) : (absorb c m).h = chainBlocks c.h m :=
  foldl_absorbByte_h_eq_chainBlocks m c hc

/-! ### The padding -/

/-- `z` without negative numbers (40_sha1.md R115). -/
theorem padZeros_eq (k : Nat) (hk : k < 64) : padZeros k = (119 - k) % 64 := by
  unfold padZeros; omega

/-- The padding ends on a block boundary (40_sha1.md R115). -/
theorem length_add_padding_mod (c : Ctx) (hc : c.blk.length < 64) :
    (c.blk.length + (padding c).length) % 64 = 0 := by
  simp only [padding, copies, padZeros_eq _ hc, List.length_cons, List.length_append, List.length_replicate, be64_length]
  omega

/-- The partial block of a message hashed from the fresh context. -/
theorem absorb_ctxSha0_blk_length (m : List Byte) : (absorb ctxSha0 m).blk.length = m.length % 64 := by
  simpa [ctxSha0] using absorb_blk_length ctxSha0 m (by simp [ctxSha0])

/-- The padding of a message hashed from the fresh context, by the message's length alone. -/
theorem padding_absorb_ctxSha0 (m : List Byte) :
    padding (absorb ctxSha0 m) =
      0x80 :: (List.replicate ((119 - m.length % 64) % 64) 0 ++ be64 (BitVec.ofNat 64 (8 * m.length))) := by
  have hlen : (absorb ctxSha0 m).len = m.length := by simp [ctxSha0]
  rw [padding, absorb_ctxSha0_blk_length, padZeros_eq _ (Nat.mod_lt _ (by decide)), hlen, bitLength, copies]

/-- `sha1` chains the compression over the message and its padding (40_sha1.md R114-R117). -/
theorem sha1_eq_digest_chainBlocks (m : List Byte) :
    sha1 m = digest (chainBlocks hInit (m ++ padding (absorb ctxSha0 m))) := by
  rw [sha1, finalize, ← absorb_append, absorb_h_eq_chainBlocks ctxSha0 _ rfl, ctxSha0]

/-- Settles O34: `sha1` absorbs the message and then its padding, so it absorbs their concatenation, which the chaining
over whole blocks consumes without remainder. The bound on the length is not needed: BE64 wraps as the model does. -/
theorem sha1IsMerkleDamgard : Obligations.Sha1IsMerkleDamgard := by
  intro m _
  have hwhole := length_add_padding_mod (absorb ctxSha0 m)
    (by rw [absorb_ctxSha0_blk_length]; exact Nat.mod_lt _ (by decide))
  have hsha := sha1_eq_digest_chainBlocks m
  rw [absorb_ctxSha0_blk_length, padding_absorb_ctxSha0, Nat.mod_add_mod, ← List.length_append] at hwhole
  rw [padding_absorb_ctxSha0] at hsha
  exact ⟨hwhole, hsha⟩

end Sys2Proof.Claims
end

section
/-! The nine invariants of 10_state.md R45, taken apart by what they constrain: the message context alone (1, 2), the
key state alone (4 to 7), the two together (3), and the status fields (8, 9). A command touches the first three groups
by its effect and the last by its completion, so each group is kept by its own lemmas. -/

namespace Sys2Proof.Machine

/-! ### The invariants by group -/

/-- Invariants 1 and 2 of R45, on the message context. -/
structure Ctx.Inv (c : Ctx) : Prop where
  zeroized_of_idle : c.mode = .idle → c = Ctx.idle0
  partial_block : c.mode ≠ .idle → c.blk.length = c.len % 64 ∧ c.len ≤ Config.maxlenBytes

/-- Invariants 4 to 7 of R45, on the key state. -/
structure Key.Inv (k : Key) : Prop where
  zeroized_of_none : k.kmode = .none → k = Key.key0
  zeroized_of_loading : k.kmode = .loading → k.iks = Chain.zero ∧ k.oks = Chain.zero
  zeroized_of_ready : k.kmode = .ready → k.kacc = .short []
  accumulator : k.kacc.Inv k.kmode

/-- Invariant 3 of R45: an HMAC message has its key. -/
def Ctx.Keyed (c : Ctx) (k : Key) : Prop := c.mode = .hmac → k.kmode = .ready ∧ 64 ≤ c.len

/-- The three groups that a command's effect can touch. -/
structure Block.HashInv (b : Block) : Prop where
  ctx_inv : b.ctx.Inv
  key_inv : b.key.Inv
  keyed : b.ctx.Keyed b.key

/-- The nine invariants are the three groups and the two on the status fields. -/
theorem Block.inv_iff (b : Block) :
    b.Inv ↔ b.HashInv ∧ (b.busy = false → b.pending = 0) ∧ (b.err = false ↔ b.errcode = 0) := by
  constructor
  · intro h
    exact ⟨⟨⟨h.idle_zeroized, h.partial_block⟩,
      ⟨h.no_key_zeroized, h.loading_zeroized, h.ready_zeroized, h.accumulator⟩, h.hmac_keyed⟩,
      h.idle_pending, h.error_code⟩
  · rintro ⟨⟨hctx, hkey, hkeyed⟩, hpending, herr⟩
    exact ⟨hctx.zeroized_of_idle, hctx.partial_block, hkeyed, hkey.zeroized_of_none, hkey.zeroized_of_loading,
      hkey.zeroized_of_ready, hkey.accumulator, hpending, herr⟩

theorem Block.Inv.hashInv {b : Block} (h : b.Inv) : b.HashInv := (b.inv_iff.mp h).1

/-- The first three groups speak of `ctx` and `key` alone. -/
theorem Block.HashInv.congr {b c : Block} (h : b.HashInv) (hctx : c.ctx = b.ctx) (hkey : c.key = b.key) :
    c.HashInv := by
  obtain ⟨hc, hk, hck⟩ := h
  exact ⟨hctx ▸ hc, hkey ▸ hk, hctx ▸ hkey ▸ hck⟩

/-! ### The message context -/

theorem Ctx.inv_idle0 : Ctx.idle0.Inv := ⟨fun _ => rfl, fun h => absurd rfl h⟩

theorem Ctx.inv_ctxSha0 : ctxSha0.Inv := ⟨nofun, fun _ => ⟨rfl, Nat.zero_le _⟩⟩

theorem Ctx.inv_hctx (h : Chain) : (hctx h).Inv :=
  ⟨nofun, fun _ => ⟨by simp [hctx], by simp [hctx, Config.maxlenBytes]⟩⟩

/-- Absorbing keeps invariant 2 as long as the count stays in bounds (40_sha1.md R114, R118). -/
theorem Ctx.Inv.absorb {c : Ctx} {m : List Byte} (hc : c.Inv) (hmode : c.mode ≠ .idle)
    (hlen : c.len + m.length ≤ Config.maxlenBytes) : (absorb c m).Inv := by
  obtain ⟨hblk, -⟩ := hc.partial_block hmode
  refine ⟨fun h => absurd (by simpa using h) hmode, fun _ => ⟨?_, by simpa using hlen⟩⟩
  rw [absorb_blk_length c m (hblk ▸ Nat.mod_lt _ (by decide)), hblk, absorb_len, Nat.mod_add_mod]

/-- A context that is no HMAC message needs no key. -/
theorem Ctx.keyed_of_ne_hmac {c : Ctx} (h : c.mode ≠ .hmac) (k : Key) : c.Keyed k := fun hc => absurd hc h

theorem Ctx.keyed_idle0 (k : Key) : Ctx.idle0.Keyed k := keyed_of_ne_hmac (by decide) k

theorem Ctx.keyed_ctxSha0 (k : Key) : ctxSha0.Keyed k := keyed_of_ne_hmac (by decide) k

theorem Ctx.Keyed.absorb {c : Ctx} {k : Key} (h : c.Keyed k) (m : List Byte) : (absorb c m).Keyed k := by
  intro hmode
  obtain ⟨hready, hlen⟩ := h (by simpa using hmode)
  exact ⟨hready, le_trans hlen (Nat.le_add_right _ _)⟩

/-- While the key is not Ready, no HMAC message is in progress. -/
theorem Ctx.Keyed.ne_hmac {c : Ctx} {k : Key} (h : c.Keyed k) (hk : k.kmode ≠ .ready) : c.mode ≠ .hmac :=
  fun hc => hk (h hc).1

/-! ### The key state -/

theorem Key.inv_key0 : Key.key0.Inv := ⟨fun _ => rfl, nofun, nofun, Nat.zero_le _⟩

/-- A key state in Loading with zeroized halves is as good as its accumulator. -/
theorem Key.inv_loading {a : KAcc} (ha : a.Inv .loading) :
    Key.Inv { kmode := .loading, iks := Chain.zero, oks := Chain.zero, kacc := a } :=
  ⟨nofun, fun _ => ⟨rfl, rfl⟩, nofun, ha⟩

theorem Key.inv_ready (iks oks : Chain) : Key.Inv { kmode := .ready, iks := iks, oks := oks, kacc := .short [] } :=
  ⟨nofun, nofun, fun _ => rfl, Nat.zero_le _⟩

/-- `kappend` keeps invariant 7 as long as the key's length stays in bounds (41_hmac.md R142). -/
theorem KAcc.Inv.kappend {a : KAcc} {m : List Byte} (ha : a.Inv .loading)
    (hlen : klen a + m.length ≤ Config.maxlenBytes) : (kappend a m).Inv .loading := by
  cases a with
  | short s =>
    rw [Machine.kappend]
    split
    case isTrue hfits => simpa [KAcc.Inv] using hfits
    case isFalse hlong =>
      simp only [klen] at hlen
      refine ⟨absorb_mode _ _, ?_, ?_, rfl⟩ <;> simp only [absorb_len, List.length_append, ctxSha0] <;> omega
  | long c =>
    obtain ⟨hmode, hlong, -, -⟩ := ha
    exact ⟨by simpa using hmode, lt_of_lt_of_le hlong (Nat.le_add_right _ _), hlen, rfl⟩

/-- A key absorb keeps the key state's invariants. -/
theorem Key.Inv.kappend {k : Key} {m : List Byte} (hk : k.Inv) (hload : k.kmode = .loading)
    (hlen : klen k.kacc + m.length ≤ Config.maxlenBytes) : Key.Inv { k with kacc := kappend k.kacc m } :=
  ⟨fun h => (nomatch hload.symm.trans h), hk.zeroized_of_loading, fun h => (nomatch hload.symm.trans h),
    hload ▸ (hload ▸ hk.accumulator : k.kacc.Inv .loading).kappend hlen⟩

/-! ### What the checks of an absorb give -/

theorem Block.inBytes_length_le (b : Block) (n : Count) : (b.inBytes n).length ≤ n.toNat := List.length_take_le _ _

theorem Block.outBytes_length_le (b : Block) (n : Count) : (b.outBytes n).length ≤ n.toNat := List.length_take_le _ _

/-- The checks of SHA1_UPDATE and HMAC_UPDATE pass exactly when the message is in progress and stays in bounds. -/
theorem message_checks_pass (n : Count) (b : Block) (m : CtxMode) :
    firstError [checkLen n, checkCtx b m, checkLength (b.ctx.len + n.toNat)] = none ↔
      n.toNat ≤ 64 ∧ b.ctx.mode = m ∧ b.ctx.len + n.toNat ≤ 2 ^ 61 - 1 := by
  simp only [firstError_cons_eq_none, checkLen_passes, checkCtx_passes, checkLength_passes, firstError_nil, and_true]

/-- The checks of the two key absorbs pass exactly when a key is being loaded and stays in bounds. -/
theorem key_checks_pass (n : Count) (b : Block) :
    firstError [checkLen n, checkLoading b, checkLength (klen b.key.kacc + n.toNat)] = none ↔
      n.toNat ≤ 64 ∧ b.key.kmode = .loading ∧ klen b.key.kacc + n.toNat ≤ 2 ^ 61 - 1 := by
  simp only [firstError_cons_eq_none, checkLen_passes, checkLoading_passes, checkLength_passes, firstError_nil,
    and_true]

/-! ### Effects -/

/-- A message update of either kind keeps the three groups. -/
theorem Block.HashInv.absorb {b : Block} {m : List Byte} (h : b.HashInv) (hmode : b.ctx.mode ≠ .idle)
    (hlen : b.ctx.len + m.length ≤ Config.maxlenBytes) : Block.HashInv { b with ctx := absorb b.ctx m } :=
  ⟨h.ctx_inv.absorb hmode hlen, h.key_inv, h.keyed.absorb m⟩

/-- A key absorb from either buffer keeps the three groups. -/
theorem Block.HashInv.kappend {b : Block} {m : List Byte} (h : b.HashInv) (hload : b.key.kmode = .loading)
    (hlen : klen b.key.kacc + m.length ≤ Config.maxlenBytes) :
    Block.HashInv { b with key := { b.key with kacc := kappend b.key.kacc m } } :=
  ⟨h.ctx_inv, h.key_inv.kappend hload hlen, Ctx.keyed_of_ne_hmac (h.keyed.ne_hmac (by simp [hload])) _⟩

/-- Ending a message keeps the three groups. -/
theorem Block.HashInv.idle {b c : Block} (h : b.HashInv) (hctx : c.ctx = Ctx.idle0) (hkey : c.key = b.key) :
    c.HashInv :=
  ⟨hctx ▸ Ctx.inv_idle0, hkey ▸ h.key_inv, hctx ▸ Ctx.keyed_idle0 _⟩

/-- A command whose checks all pass keeps the three groups. -/
theorem effectOf_keeps_hashInv {i : Instr} {b : Block} (h : b.HashInv) (hchecks : firstError (checksOf i b) = none) :
    (effectOf i b).HashInv := by
  cases i with
  | sha1Init => exact ⟨Ctx.inv_ctxSha0, h.key_inv, Ctx.keyed_ctxSha0 _⟩
  | sha1Update n =>
    obtain ⟨-, hmode, hlen⟩ := (message_checks_pass n b .sha).mp hchecks
    exact h.absorb (by simp [hmode]) (le_trans (Nat.add_le_add_left (b.inBytes_length_le n) _) hlen)
  | hmacUpdate n =>
    obtain ⟨-, hmode, hlen⟩ := (message_checks_pass n b .hmac).mp hchecks
    exact h.absorb (by simp [hmode]) (le_trans (Nat.add_le_add_left (b.inBytes_length_le n) _) hlen)
  | hmacKeyAbsorb n =>
    obtain ⟨-, hload, hlen⟩ := (key_checks_pass n b).mp hchecks
    exact h.kappend hload (le_trans (Nat.add_le_add_left (b.inBytes_length_le n) _) hlen)
  | hmacKeyAbsorbOut n =>
    obtain ⟨-, hload, hlen⟩ := (key_checks_pass n b).mp hchecks
    exact h.kappend hload (le_trans (Nat.add_le_add_left (b.outBytes_length_le n) _) hlen)
  | hmacKeyBegin =>
    have hmode : b.ctx.mode ≠ .hmac := by simpa [checksOf, firstError_cons_eq_none] using hchecks
    exact ⟨h.ctx_inv, Key.inv_loading (Nat.zero_le _), Ctx.keyed_of_ne_hmac hmode _⟩
  | hmacKeyEnd =>
    have hload : b.key.kmode = .loading := by
      simpa only [checksOf, firstError_cons_eq_none, checkLoading_passes, firstError_nil, and_true] using hchecks
    exact ⟨h.ctx_inv, Key.inv_ready _ _, Ctx.keyed_of_ne_hmac (h.keyed.ne_hmac (by simp [hload])) _⟩
  | hmacInit =>
    have hready : b.key.kmode = .ready := by
      simpa only [checksOf, firstError_cons_eq_none, checkKey_passes, firstError_nil, and_true] using hchecks
    exact ⟨Ctx.inv_hctx _, h.key_inv, fun _ => ⟨hready, le_rfl⟩⟩
  | keyClear =>
    by_cases hmode : b.ctx.mode = .hmac
    · simp only [effectOf, if_pos hmode]
      exact ⟨Ctx.inv_idle0, Key.inv_key0, Ctx.keyed_idle0 _⟩
    · simp only [effectOf, if_neg hmode]
      exact ⟨h.ctx_inv, Key.inv_key0, Ctx.keyed_of_ne_hmac hmode _⟩
  | zeroize => exact ⟨Ctx.inv_idle0, Key.inv_key0, Ctx.keyed_idle0 _⟩
  | sha1Final | sha1Oneshot | hmacFinal | hmacOneshot => exact h.idle rfl rfl
  | pbkdf2 | crcInit | crcUpdate | crcOneshot => exact h.congr rfl rfl

/-! ### Completions -/

theorem Block.HashInv.zeroKeySource {b : Block} (h : b.HashInv) (op : Opcode) : (b.zeroKeySource op).HashInv :=
  h.congr (by simp) (by simp)

/-- A success makes the status fields' invariants true. -/
theorem Block.HashInv.completeOk {b : Block} (h : b.HashInv) : b.completeOk.Inv :=
  (Block.inv_iff _).mpr ⟨h.congr rfl rfl, by simp, by simp⟩

/-- A command error makes the status fields' invariants true: no code is 0 (60_exceptions.md R203). -/
theorem Block.HashInv.completeErr {b : Block} (h : b.HashInv) (e : CmdError) : (b.completeErr e).Inv :=
  (Block.inv_iff _).mpr ⟨h.congr rfl rfl, by simp, iff_of_false (by simp) e.code_ne_zero⟩

theorem exec_keeps_inv {i : Instr} {s t : State} (h : s.toBlock.Inv) (hexec : exec i s = .next t) :
    t.toBlock.Inv := by
  cases hchecks : firstError (checksOf i s.toBlock) with
  | none =>
    rw [exec_ok hchecks] at hexec
    cases hexec
    exact ((effectOf_keeps_hashInv h.hashInv hchecks).zeroKeySource _).completeOk
  | some e =>
    rw [exec_err hchecks] at hexec
    cases hexec
    exact (h.hashInv.zeroKeySource _).completeErr e

theorem Block.HashInv.completeUndecoded {b : Block} (h : b.HashInv) (e : DecodeError) :
    (b.completeUndecoded e).Inv := by
  cases e with
  | illegalOpcode => exact h.completeErr _
  | reservedBits op => exact (h.zeroKeySource op).completeErr _

theorem engineStep_keeps_inv {s t : State} (h : s.toBlock.Inv) (hstep : engineStep s = .next t) : t.toBlock.Inv := by
  rcases engineStep_cases s with ⟨i, -, hi⟩ | ⟨e, -, he⟩
  · exact exec_keeps_inv h (hi ▸ hstep)
  · rw [he] at hstep
    cases hstep
    exact h.hashInv.completeUndecoded e

/-! ### The other agents -/

theorem Block.inv_reset : Block.reset.Inv :=
  (Block.inv_iff _).mpr
    ⟨⟨Ctx.inv_idle0, Key.inv_key0, Ctx.keyed_idle0 _⟩, fun _ => rfl, ⟨fun _ => rfl, fun _ => rfl⟩⟩

/-- The invariants hold of a block that differs only in the fields they do not mention. -/
theorem Block.Inv.congr {b c : Block} (h : b.Inv) (hctx : c.ctx = b.ctx) (hkey : c.key = b.key)
    (hbusy : c.busy = b.busy) (hpending : c.pending = b.pending) (herr : c.err = b.err)
    (hcode : c.errcode = b.errcode) : c.Inv :=
  (Block.inv_iff c).mpr
    ⟨h.hashInv.congr hctx hkey, hbusy ▸ hpending ▸ h.idle_pending, herr ▸ hcode ▸ h.error_code⟩

/-- An acknowledge clears `err` and `errcode` together (60_exceptions.md R207). -/
theorem Block.Inv.writeStatus {b : Block} (h : b.Inv) (v : Word) : (b.writeStatus v).Inv := by
  refine (Block.inv_iff _).mpr ⟨h.hashInv.congr rfl rfl, h.idle_pending, ?_⟩
  rw [Block.writeStatus_err, Block.writeStatus_errcode]
  cases v.getLsbD 2
  · simpa using h.error_code
  · simp

/-- A register write touches neither `ctx` nor `key` but by a soft reset. -/
theorem Block.Inv.writeReg {b : Block} (h : b.Inv) (r : Reg) (v : Word) : (b.writeReg r v).Inv := by
  rcases b.writeReg_cases r v with ⟨-, -, he⟩ | ⟨-, -, he⟩ | ⟨-, he⟩ | ⟨-, -, he⟩ | ⟨-, -, he⟩ | ⟨-, -, he⟩ |
    ⟨-, w, -, he⟩ | he <;> rw [he]
  · exact Block.inv_reset
  · exact h.congr rfl rfl rfl rfl rfl rfl
  · exact h.writeStatus v
  · exact h.congr rfl rfl rfl rfl rfl rfl
  · exact (Block.inv_iff _).mpr ⟨h.hashInv.congr rfl rfl, by simp, by simp⟩
  · exact h.congr rfl rfl rfl rfl rfl rfl
  · exact h.congr rfl rfl rfl rfl rfl rfl
  · exact h

theorem Block.Inv.access {b : Block} (h : b.Inv) (a : Access) : (b.access a).2.Inv := by
  rcases b.access_cases a with ⟨off, n, -, -, he⟩ | ⟨off, n, v, -, -, he⟩ | ⟨off, n, -, -, he⟩ <;> rw [he]
  · exact h
  · exact h.writeReg _ v
  · exact h

theorem step_keeps_inv {s t : State} (h : s.toBlock.Inv) (hstep : step s = .next t) : t.toBlock.Inv := by
  rcases step_cases hstep with ⟨-, ag, he⟩ | ⟨a, ag, rfl⟩ | ⟨ag, rfl⟩ | ⟨a, ag, rfl⟩ | ⟨-, ag, rfl⟩
  · exact engineStep_keeps_inv (s := { s with agenda := ag }) h he
  · exact h.access a
  · exact Block.inv_reset
  · exact Block.inv_reset
  · exact h

end Sys2Proof.Machine

namespace Sys2Proof.Claims

open Sys2Proof Sys2Proof.Machine

/-- Settles O10, by the groups of invariants: an effect keeps the groups on `ctx` and `key`, a completion makes those on
the status fields true, and a host access or a reset is a register write or the reset state. -/
theorem stepKeepsBlockInvariants : Obligations.StepKeepsBlockInvariants :=
  ⟨Block.inv_reset, fun _ _ => step_keeps_inv⟩

/-- Settles O11: the invariants by groups, and log 16's facts at the reset values. -/
theorem resetMeetsBlockInvariants : Obligations.ResetMeetsBlockInvariants :=
  ⟨Block.inv_reset,
    { busy_flags_clear := fun h => absurd h (by decide), code_defined := Nat.zero_le _, long_block := trivial }⟩

end Sys2Proof.Claims
end

section
/-! The register window as the host sees it (10_state.md R31-R39): a legal access is the register's own read or write,
and what each register's value holds in its fields and lanes. -/

namespace Sys2Proof.Machine

/-! ### A legal access -/

theorem accessLegal_word {off : Offset} (h : off.toNat % 4 = 0) : accessLegal off 4 = true := by
  simp [accessLegal, h]

theorem Block.access_read {off : Offset} (h : off.toNat % 4 = 0) (b : Block) :
    b.access (.read off 4) = (.value (b.readReg (regAt off)), b) := by
  simp [Block.access, accessLegal_word h]

theorem Block.access_write {off : Offset} (h : off.toNat % 4 = 0) (b : Block) (v : Word) :
    b.access (.write off 4 v) = (.written, b.writeReg (regAt off) v) := by
  simp [Block.access, accessLegal_word h]

theorem regAt_inbuf {off : Offset} {w : Fin 16} (h : off.toNat = 0x40 + 4 * w.val) : regAt off = .inbuf w := by
  have hw : Fin.ofNat 16 ((off.toNat - 0x40) / 4) = w := Fin.ext (by simp only [Fin.ofNat]; omega)
  simp only [regAt]
  repeat rw [if_neg (by omega)]
  rw [if_pos (by omega), hw]

theorem regAt_out {off : Offset} {w : Fin 20} (h : off.toNat = 0x80 + 4 * w.val) : regAt off = .out w := by
  have hw : Fin.ofNat 20 ((off.toNat - 0x80) / 4) = w := Fin.ext (by simp only [Fin.ofNat]; omega)
  simp only [regAt]
  repeat rw [if_neg (by omega)]
  rw [if_pos (by omega), hw]

/-! ### STATUS and CRC -/

/-- The one-bit fields of STATUS (10_state.md R33). -/
theorem Block.statusValue_flags (b : Block) :
    b.statusValue.getLsbD 0 = b.busy ∧ b.statusValue.getLsbD 1 = b.done ∧ b.statusValue.getLsbD 2 = b.err ∧
    b.statusValue.getLsbD 3 = b.wdrop ∧ b.statusValue.getLsbD 4 = decide (b.key.kmode = .ready) ∧
    b.statusValue.getLsbD 5 = decide (b.key.kmode = .loading) := by
  simp only [Block.statusValue, BitVec.getLsbD_append]
  simp [bit, beq_eq_decide]

/-- The wider fields of STATUS (10_state.md R33). -/
theorem Block.statusValue_fields (b : Block) :
    b.statusValue.extractLsb' 6 2 = b.ctx.mode.bits ∧ b.statusValue.extractLsb' 8 8 = b.errcode ∧
    b.statusValue.extractLsb' 16 8 = b.lastop ∧ b.statusValue.extractLsb' 24 8 = 0 := by
  refine ⟨?_, ?_, ?_, ?_⟩ <;>
  · apply BitVec.eq_of_getLsbD_eq
    intro i hi
    simp only [BitVec.getLsbD_extractLsb', Block.statusValue, BitVec.getLsbD_append, hi]
    interval_cases i <;> simp

/-- A running CRC and its complement are the halves of the CRC register while idle (10_state.md R36). -/
theorem Block.crcValue_halves {b : Block} (h : b.busy = false) :
    b.crcValue.extractLsb' 0 16 = b.crc ∧ b.crcValue.extractLsb' 16 16 = ~~~b.crc := by
  have hcompl : b.crc ^^^ 0xFFFF = ~~~b.crc := BitVec.xor_allOnes
  rw [Block.crcValue, h, hcompl]
  constructor <;>
  · apply BitVec.eq_of_getLsbD_eq
    intro i hi
    interval_cases i <;> simp

/-! ### Buffer words -/

/-- The lanes of a buffer's word (20_memory.md R53). -/
theorem byteLane_bufWord {n : Nat} (b : Vector Byte n) (w : Nat) {j : Nat} (hj : j < 4) :
    byteLane (bufWord b w) j = byteAt b.toList (4 * w + j) := by
  obtain ⟨h0, h1, h2, h3⟩ := byteLane_le32 (byteAt b.toList (4 * w)) (byteAt b.toList (4 * w + 1))
    (byteAt b.toList (4 * w + 2)) (byteAt b.toList (4 * w + 3))
  interval_cases j <;> assumption

theorem byteAt_copies_zero (n i : Nat) : byteAt (copies 0 n) i = 0 := by
  rw [byteAt, copies, List.getD_eq_getElem?_getD, List.getElem?_replicate]
  split <;> rfl

/-- Every word of a zeroed buffer is 0. -/
theorem bufWord_zeroBuf (n w : Nat) : bufWord (zeroBuf n) w = 0 := by
  simp only [bufWord, zeroBuf_toList, byteAt_copies_zero]
  rfl

end Sys2Proof.Machine

namespace Sys2Proof.Claims

open Sys2Proof Sys2Proof.Machine

/-! ### Reads and writes by register -/

/-- A 32-bit read answers the register's value. -/
theorem reads_readReg {off : Offset} (h : off.toNat % 4 = 0) (s : State) :
    Reads s off (s.toBlock.readReg (regAt off)) := by
  intro rest
  rw [step_of_access rfl, State.hostAccess, Block.access_read h]

/-- A 32-bit write leaves what the register's write makes of the block. -/
theorem writes_writeReg {off : Offset} (h : off.toNat % 4 = 0) (s : State) (v : Word) :
    Writes s off v (s.toBlock.writeReg (regAt off) v) := by
  intro rest
  rw [step_of_access rfl, State.hostAccess, Block.access_write h]

theorem Reads.congr {s : State} {off : Offset} {v w : Word} (h : Reads s off v) (hv : v = w) : Reads s off w := hv ▸ h

theorem Writes.congr {s : State} {off : Offset} {v : Word} {b c : Block} (h : Writes s off v b) (hb : b = c) :
    Writes s off v c := hb ▸ h

/-! ### The registers -/

/-- Settles O13: the two registers' own reads, and writes that their register ignores. -/
theorem identificationRegistersAreConstant : Obligations.IdentificationRegistersAreConstant := fun s =>
  ⟨reads_readReg (by decide) s, reads_readReg (by decide) s,
    fun v => ⟨writes_writeReg (by decide) s v, writes_writeReg (by decide) s v⟩⟩

/-- Settles O14: CTRL's own read and write, by bit 0 of the value. -/
theorem ctrlRegisterEnablesOrResets : Obligations.CtrlRegisterEnablesOrResets := by
  intro s
  have hvalue : s.ctrlValue = if s.irqEn then 2 else 0 := by
    rw [Block.ctrlValue]
    cases s.irqEn <;> rfl
  have hwrite (v : Word) : Writes s 0x08 v
      (if v.getLsbD 0 then s.softReset else { s.toBlock with irqEn := v.getLsbD 1 }) :=
    writes_writeReg (by decide) s v
  exact ⟨(reads_readReg (by decide) s).congr hvalue,
    fun v => ⟨fun hv => (hwrite v).congr (if_neg (ne_true_of_eq_false hv)),
      fun hv => (hwrite v).congr (if_pos hv)⟩⟩

/-- Settles O15: the fields of the status value, and the acknowledge with its masks written as conditionals. -/
theorem statusRegisterShowsAndClearsFlags : Obligations.StatusRegisterShowsAndClearsFlags := by
  refine ⟨fun s => ?_, fun s v => ?_, reads_readReg (by decide) State.reset⟩
  · obtain ⟨hbusy, hdone, herr, hwdrop, hready, hloading⟩ := s.toBlock.statusValue_flags
    obtain ⟨hmode, hcode, hlastop, hzero⟩ := s.toBlock.statusValue_fields
    refine ⟨s.statusValue, reads_readReg (by decide) s, hbusy, hdone, herr, hwdrop, hready, hloading, ?_, hcode,
      hlastop, hzero⟩
    rw [hmode]
    cases s.ctx.mode <;> rfl
  · have hmask (flag clear : Bool) : (flag && !clear) = if clear then false else flag := by
      cases clear <;> simp
    refine (writes_writeReg (by decide) s v).congr ?_
    change s.writeStatus v = _
    rw [Block.writeStatus, hmask, hmask, hmask]

/-- Settles O17: ITER's own read and write, by `busy`. -/
theorem iterRegisterHoldsCount : Obligations.IterRegisterHoldsCount := by
  refine ⟨fun s => ⟨reads_readReg (by decide) s, fun v => ?_⟩, reads_readReg (by decide) State.reset⟩
  have hwrite : Writes s 0x14 v (if s.busy then s.dropWrite else { s.toBlock with iter := v }) :=
    writes_writeReg (by decide) s v
  exact ⟨fun hb => hwrite.congr (if_neg (ne_true_of_eq_false hb)),
    fun hb => hwrite.congr (if_pos hb)⟩

/-- Settles O18, by the halves of the CRC value. -/
theorem crcRegisterShowsBothForms : Obligations.CrcRegisterShowsBothForms := by
  refine ⟨fun s => ⟨fun hb => ?_, fun hb => ?_, writes_writeReg (by decide) s⟩, reads_readReg (by decide) State.reset⟩
  · exact ⟨s.crcValue, reads_readReg (by decide) s, Block.crcValue_halves hb⟩
  · exact (reads_readReg (by decide) s).congr (if_pos hb)

/-- Settles O19: the gate on `busy` and the mode, then the count's halves as quotient and remainder. -/
theorem msglenRegistersShowByteCount : Obligations.MsglenRegistersShowByteCount := by
  refine ⟨fun s => ⟨fun hb hmode => ?_, fun hgate => ?_, fun v => ?_⟩, ?_, ?_⟩
  · have hopen : ¬(s.busy = true ∨ s.ctx.mode = .idle) := by simp [hb, hmode]
    refine ⟨_, _, (reads_readReg (by decide) s).congr (if_neg hopen),
      (reads_readReg (by decide) s).congr (if_neg hopen), ?_, ?_⟩
    · simp
    · simp [Nat.shiftRight_eq_div_pow]
  · exact ⟨(reads_readReg (by decide) s).congr (if_pos hgate), (reads_readReg (by decide) s).congr (if_pos hgate)⟩
  · exact ⟨writes_writeReg (by decide) s v, writes_writeReg (by decide) s v⟩
  · exact reads_readReg (by decide) State.reset
  · exact reads_readReg (by decide) State.reset

/-! ### The buffer windows -/

/-- What a read of INBUF[w] answers and a write to it leaves, by whether a command is pending. -/
theorem inbuf_access {off : Offset} {w : Fin 16} (h : off.toNat = 0x40 + 4 * w.val) (s : State) :
    Reads s off (if s.busy then 0 else bufWord s.inbuf w.val) ∧
    ∀ v, Writes s off v (if s.busy then s.dropWrite else { s.toBlock with inbuf := setBufWord s.inbuf w.val v }) := by
  have hreg := regAt_inbuf h
  have hoff : off.toNat % 4 = 0 := by omega
  exact ⟨(reads_readReg hoff s).congr (by rw [hreg]; rfl),
    fun v => (writes_writeReg hoff s v).congr (by rw [hreg]; rfl)⟩

/-- What a read of OUT[w] answers, and that a write to it leaves the block. -/
theorem out_access {off : Offset} {w : Fin 20} (h : off.toNat = 0x80 + 4 * w.val) (s : State) :
    Reads s off (if s.busy then 0 else bufWord s.out w.val) ∧ ∀ v, Writes s off v s.toBlock := by
  have hreg := regAt_out h
  have hoff : off.toNat % 4 = 0 := by omega
  exact ⟨(reads_readReg hoff s).congr (by rw [hreg]; rfl),
    fun v => (writes_writeReg hoff s v).congr (by rw [hreg]; rfl)⟩

/-- Settles O20, by the lanes of a buffer's word, read and replaced. -/
theorem inbufRegistersReadAndWriteLanes : Obligations.InbufRegistersReadAndWriteLanes := by
  refine ⟨fun s w off hoff => ?_, fun w off hoff => ?_⟩
  · obtain ⟨hread, hwrite⟩ := inbuf_access hoff s
    refine ⟨fun hb => ⟨⟨_, hread.congr (if_neg (ne_true_of_eq_false hb)), fun j => byteLane_bufWord s.inbuf w.val⟩,
      fun v => ⟨_, (hwrite v).congr (if_neg (ne_true_of_eq_false hb)), fun k _ => ?_⟩⟩,
      fun hb => ⟨hread.congr (if_pos hb), fun v => (hwrite v).congr (if_pos hb)⟩⟩
    exact byteAt_setBufWord s.inbuf w.val v k (by simp only [Config.inbufBytes]; omega)
  · exact (inbuf_access hoff State.reset).1.congr (bufWord_zeroBuf _ _)

/-- Settles O21, by the lanes of a buffer's word. -/
theorem outRegistersReadLanes : Obligations.OutRegistersReadLanes := by
  refine ⟨fun s w off hoff => ?_, fun w off hoff => ?_⟩
  · obtain ⟨hread, hwrite⟩ := out_access hoff s
    exact ⟨fun hb => ⟨_, hread.congr (if_neg (ne_true_of_eq_false hb)), fun j => byteLane_bufWord s.out w.val⟩,
      fun hb => hread.congr (if_pos hb), hwrite⟩
  · exact (out_access hoff State.reset).1.congr (bufWord_zeroBuf _ _)

end Sys2Proof.Claims
end

section
/-! What the host can tell of the block and what commands leave to it: reset values (10_state.md R44), the interrupt
line (R43), hidden state (R41) and the lifetime of a loaded key (R26). -/

namespace Sys2Proof.Machine

/-! ### What commands leave unchanged -/

/-- No command's effect touches the interrupt enable (10_state.md R30). -/
@[simp] theorem effectOf_irqEn (i : Instr) (b : Block) : (effectOf i b).irqEn = b.irqEn := by cases i <;> rfl

theorem exec_irqEn {i : Instr} {s t : State} (h : exec i s = .next t) : t.irqEn = s.irqEn := by
  cases hchecks : firstError (checksOf i s.toBlock) with
  | none => rw [exec_ok hchecks] at h; cases h; simp
  | some e => rw [exec_err hchecks] at h; cases h; simp

/-- A completion leaves `done` set and the interrupt enable as it was (60_exceptions.md R201). -/
theorem engineStep_done_irqEn {s t : State} (h : engineStep s = .next t) : t.done = true ∧ t.irqEn = s.irqEn := by
  rcases engineStep_cases s with ⟨i, -, hi⟩ | ⟨e, -, he⟩
  · rw [hi] at h
    obtain ⟨-, -, hdone, -, -⟩ := exec_frame h
    exact ⟨hdone, exec_irqEn h⟩
  · rw [he] at h
    cases h
    cases e <;> simp [Block.completeUndecoded]

/-- With a Ready key, the effect of a command but HMAC_KEY_BEGIN, KEY_CLEAR and ZEROIZE leaves the key: the other
commands that write it check that it is Loading. -/
theorem effectOf_key_of_ready {i : Instr} {b : Block} (hready : b.key.kmode = .ready)
    (hchecks : firstError (checksOf i b) = none) (hbegin : i ≠ .hmacKeyBegin) (hclear : i ≠ .keyClear)
    (hzeroize : i ≠ .zeroize) : (effectOf i b).key = b.key := by
  have hload : b.key.kmode ≠ .loading := by simp [hready]
  cases i with
  | hmacKeyAbsorb n | hmacKeyAbsorbOut n =>
    obtain ⟨-, hmode, -⟩ := (key_checks_pass n b).mp hchecks
    exact absurd hmode hload
  | hmacKeyEnd =>
    rw [checksOf, firstError_cons_eq_none, checkLoading_passes] at hchecks
    exact absurd hchecks.1 hload
  | hmacKeyBegin => exact absurd rfl hbegin
  | keyClear => exact absurd rfl hclear
  | zeroize => exact absurd rfl hzeroize
  | _ => rfl

/-! ### Hidden state -/

/-- Every register shows visible fields only (10_state.md R41). -/
theorem Block.SameVisible.readReg {a b : Block} (h : a.SameVisible b) (r : Reg) : a.readReg r = b.readReg r := by
  cases r with
  | id | version | cmd | reserved => rfl
  | ctrl => simp only [Block.readReg, Block.ctrlValue, h.irqEn]
  | status =>
    simp only [Block.readReg, Block.statusValue, h.lastop, h.errcode, h.mode, h.kmode, h.wdrop, h.err, h.done, h.busy]
  | iter => exact h.iter
  | crc => simp only [Block.readReg, Block.crcValue, h.busy, h.crc]
  | msglenLo | msglenHi => simp only [Block.readReg, Block.msglenValue, h.busy, h.mode, h.len]
  | inbuf w => simp only [Block.readReg, h.busy, h.inbuf]
  | out w => simp only [Block.readReg, h.busy, h.out]

theorem Block.SameVisible.refl (b : Block) : b.SameVisible b :=
  ⟨rfl, rfl, rfl, rfl, rfl, rfl, rfl, rfl, rfl, rfl, rfl, rfl, rfl, rfl⟩

theorem Block.SameVisible.dropWrite {a b : Block} (h : a.SameVisible b) : a.dropWrite.SameVisible b.dropWrite :=
  { h with wdrop := rfl }

theorem Block.SameVisible.issue {a b : Block} (h : a.SameVisible b) (v : Word) :
    (a.issue v).SameVisible (b.issue v) :=
  { h with busy := rfl, done := rfl, err := rfl, errcode := rfl, lastop := rfl }

theorem Block.SameVisible.writeStatus {a b : Block} (h : a.SameVisible b) (v : Word) :
    (a.writeStatus v).SameVisible (b.writeStatus v) :=
  { h with
    done := by rw [Block.writeStatus_done, Block.writeStatus_done, h.done]
    err := by rw [Block.writeStatus_err, Block.writeStatus_err, h.err]
    errcode := by rw [Block.writeStatus_errcode, Block.writeStatus_errcode, h.errcode]
    wdrop := by rw [Block.writeStatus_wdrop, Block.writeStatus_wdrop, h.wdrop] }

/-- The gate on `busy` goes the same way in both blocks. -/
theorem Block.SameVisible.ite_busy {a b c d c' d' : Block} (h : a.SameVisible b) (hbusy : c.SameVisible d)
    (hidle : c'.SameVisible d') : (if a.busy then c else c').SameVisible (if b.busy then d else d') := by
  rw [h.busy]
  split
  · exact hbusy
  · exact hidle

/-- A write's choices and what it leaves in the visible fields depend on the visible fields alone. -/
theorem Block.SameVisible.writeReg {a b : Block} (h : a.SameVisible b) (r : Reg) (v : Word) :
    (a.writeReg r v).SameVisible (b.writeReg r v) := by
  cases r with
  | ctrl =>
    simp only [Block.writeReg]
    split
    · exact .refl _
    · exact { h with irqEn := rfl }
  | status => exact h.writeStatus v
  | cmd => exact h.ite_busy h.dropWrite (h.issue v)
  | iter => exact h.ite_busy h.dropWrite { h with iter := rfl }
  | inbuf w => exact h.ite_busy h.dropWrite { h with inbuf := congrArg (setBufWord · w.val v) h.inbuf }
  | id | version | crc | msglenLo | msglenHi | out _ | reserved => exact h

end Sys2Proof.Machine

namespace Sys2Proof.Claims

open Sys2Proof Sys2Proof.Machine

/-- The block that a write leaves is the one `Writes` names. -/
theorem Writes.toBlock_eq {s t : State} {off : Offset} {v : Word} {b : Block} {rest : List Event} (h : Writes s off v b)
    (hstep : step { s with agenda := .access (.write off 4 v) :: rest } = .next t) : t.toBlock = b := by
  rw [h rest] at hstep
  cases hstep
  rfl

/-- Each of the three ways to reset leaves the block at `Block.reset`, and its entry of the schedule behind. -/
theorem step_reset_toBlock (s : State) (rest : List Event) (e : Event)
    (he : e = .reset ∨ (∃ a p, e = .resetOverlap a p) ∨
      ∃ v : Word, v.getLsbD 0 = true ∧ e = .access (.write 0x08 4 v)) :
    ∃ t, step { s with agenda := e :: rest } = .next t ∧ t.agenda = rest ∧ t.toBlock = Block.reset := by
  rcases he with rfl | ⟨a, performed, rfl⟩ | ⟨v, hv, rfl⟩
  · exact ⟨_, rfl, rfl, rfl⟩
  · cases performed <;> exact ⟨_, rfl, rfl, rfl⟩
  · obtain ⟨-, hctrl⟩ := ctrlRegisterEnablesOrResets s
    exact ⟨_, (hctrl v).2 hv rest, rfl, rfl⟩

/-- Settles O24: every way to reset leaves `Block.reset`, whose fields are read off. -/
theorem resetTakesResetValues : Obligations.ResetTakesResetValues := by
  intro s rest e he
  obtain ⟨t, hstep, hagenda, hblock⟩ := step_reset_toBlock s rest e he
  refine ⟨t, hstep, hagenda, ?_⟩
  rw [hblock]
  exact ⟨zeroBuf_toList 64, zeroBuf_toList 80, rfl, rfl, rfl, rfl, rfl, rfl, rfl, rfl, rfl, rfl, rfl, rfl, rfl⟩

/-- Settles O26: `irq` is `irq_en and done`, so each clause is what its step leaves in one of the two. -/
theorem irqFollowsCompletion : Obligations.IrqFollowsCompletion := by
  have hirq {b : Block} (h : b.irqEn = false ∨ b.done = false) : b.irq = false := by
    rcases h with h | h <;> simp [Block.irq, h]
  refine ⟨fun _ => rfl, fun s t hstep => ?_, fun s t v rest hv hstep => ?_, fun s t v rest hb hstep => ?_,
    fun s t rest hstep => ?_, fun s t v rest hv hstep => ?_⟩
  · obtain ⟨hdone, hen⟩ := engineStep_done_irqEn hstep
    rw [Block.irq, hdone, hen, Bool.and_true]
  · have ht : t.toBlock = s.writeStatus v := (writes_writeReg (by decide) s v).toBlock_eq hstep
    exact hirq (.inr (by rw [ht, Block.writeStatus_done, hv, Bool.not_true, Bool.and_false]))
  · have ht : t.toBlock = if s.busy then s.dropWrite else s.issue v :=
      (writes_writeReg (by decide) s v).toBlock_eq hstep
    exact hirq (.inr (by rw [ht, if_neg (ne_true_of_eq_false hb), Block.issue_done]))
  · cases hstep
    rfl
  · obtain ⟨-, hctrl⟩ := ctrlRegisterEnablesOrResets s
    obtain ⟨henable, hsoft⟩ := hctrl v
    cases hreset : v.getLsbD 0 with
    | true => exact hirq (.inl (by rw [(hsoft hreset).toBlock_eq hstep]; rfl))
    | false => exact hirq (.inl (by rw [(henable hreset).toBlock_eq hstep]; exact hv))

/-- Settles O31: an access is a register's read or write, and both respect the agreement on visible fields. -/
theorem registersHideSecrets : Obligations.RegistersHideSecrets := by
  intro a b acc h
  cases acc with
  | read off n =>
    simp only [Block.access]
    split
    · exact ⟨congrArg Reply.value (h.readReg _), h⟩
    · exact ⟨rfl, h⟩
  | write off n v =>
    simp only [Block.access]
    split
    · exact ⟨rfl, h.writeReg _ v⟩
    · exact ⟨rfl, h⟩

/-- Settles O32: a failure leaves the key, and the effects that would change it need another key mode. -/
theorem readyKeyLifetime : Obligations.ReadyKeyLifetime := by
  intro i s t hready hexec hbegin hclear hzeroize
  cases hchecks : firstError (checksOf i s.toBlock) with
  | none =>
    rw [exec_ok hchecks] at hexec
    cases hexec
    simpa using effectOf_key_of_ready hready hchecks hbegin hclear hzeroize
  | some e =>
    rw [exec_err hchecks] at hexec
    cases hexec
    simp

end Sys2Proof.Claims
end

section
/-! The window's quiet accesses: what stands at the reserved and the read-only offsets (20_memory.md R59), and the little
that an access can do to a block with a command pending (R58, R65). -/

namespace Sys2Proof.Machine

/-! ### Offsets that no write reaches -/

theorem regAt_reserved {off : Offset} (h : Claims.reservedOffset off = true) : regAt off = .reserved := by
  simp only [Claims.reservedOffset, Bool.or_eq_true, Bool.and_eq_true, decide_eq_true_eq] at h
  simp only [regAt]
  repeat rw [if_neg (by omega)]

/-- A read-only offset is that of a single register or of a word of OUT (10_state.md R40). -/
theorem readOnlyOffset_cases {off : Offset} (hmod : off.toNat % 4 = 0) (h : Claims.readOnlyOffset off = true) :
    off ∈ ([0x00, 0x04, 0x18, 0x1C, 0x20] : List Offset) ∨ ∃ w : Fin 20, off.toNat = 0x80 + 4 * w.val := by
  simp only [Claims.readOnlyOffset, Bool.or_eq_true, Bool.and_eq_true, decide_eq_true_eq] at h
  rcases h with hsingle | ⟨hlow, hhigh⟩
  · left
    simpa [← BitVec.toNat_inj] using hsingle
  · right
    exact ⟨⟨(off.toNat - 0x80) / 4, by omega⟩, by dsimp only; omega⟩

/-! ### An access while a command is pending -/

/-- With a command pending, an access that is no soft reset leaves the block, sets the interrupt enable, acknowledges, or
is a dropped write. -/
theorem Block.access_busy_cases {b : Block} {a : Access} (hb : b.busy = true) (ha : isSoftReset a = false) :
    (b.access a).2 = b ∨ (∃ e, (b.access a).2 = { b with irqEn := e }) ∨ (∃ v, (b.access a).2 = b.writeStatus v) ∨
    (b.access a).2 = b.dropWrite := by
  rcases b.access_cases a with ⟨off, n, -, -, he⟩ | ⟨off, n, v, rfl, hlegal, he⟩ | ⟨off, n, -, -, he⟩ <;> rw [he]
  · exact .inl rfl
  · rcases b.writeReg_cases (regAt off) v with ⟨hctrl, hv, -⟩ | ⟨-, -, hw⟩ | ⟨-, hw⟩ | ⟨-, -, hw⟩ | ⟨hidle, -⟩ |
      ⟨hidle, -⟩ | ⟨hidle, -⟩ | hw
    · have hsoft : isSoftReset (.write off n v) = true := by rw [isSoftReset, hlegal, hctrl, hv]; rfl
      exact absurd hsoft (ne_true_of_eq_false ha)
    · exact .inr (.inl ⟨_, hw⟩)
    · exact .inr (.inr (.inl ⟨v, hw⟩))
    · exact .inr (.inr (.inr hw))
    · exact absurd hb (ne_true_of_eq_false hidle)
    · exact absurd hb (ne_true_of_eq_false hidle)
    · exact absurd hb (ne_true_of_eq_false hidle)
    · exact .inl hw
  · exact .inl rfl

end Sys2Proof.Machine

namespace Sys2Proof.Claims

open Sys2Proof Sys2Proof.Machine

/-- Settles O22: the register at the offset is `reserved`, or a read-only one, and the window ignores writes to both. -/
theorem reservedAndReadOnlyWritesIgnored : Obligations.ReservedAndReadOnlyWritesIgnored := by
  refine fun s off hmod => ⟨fun h => ?_, fun h v => ?_⟩
  · have hreg := regAt_reserved h
    exact ⟨(reads_readReg hmod s).congr (by rw [hreg]; rfl),
      fun v => (writes_writeReg hmod s v).congr (by rw [hreg]; rfl)⟩
  · rcases readOnlyOffset_cases hmod h with hsingle | ⟨w, hw⟩
    · simp only [List.mem_cons, List.not_mem_nil, or_false] at hsingle
      rcases hsingle with rfl | rfl | rfl | rfl | rfl <;> exact writes_writeReg hmod s v
    · exact (out_access hw s).2 v

/-- Settles O29: while busy an access touches the interrupt enable and the flags at most, and no command reads those. -/
theorem pendingOperandsStayFixed : Obligations.PendingOperandsStayFixed := by
  intro s t a rest hb ha hstep
  rw [step_of_access rfl] at hstep
  cases hstep
  simp only [State.hostAccess]
  rcases Block.access_busy_cases hb ha with he | ⟨e, he⟩ | ⟨v, he⟩ | he <;> rw [he] <;>
    exact ⟨hb, rfl, rfl, rfl, rfl, rfl, rfl, rfl⟩

end Sys2Proof.Claims
end

section
/-! The encoding (30_encoding.md R81-R89): a word is its five fields, so the one word that decodes to a command is
the word `encode` gives for it, and the fields of R204's `validate` are the decoder's. -/

namespace Sys2Proof

/-! ### Commands and their fields -/

/-- A command that uses no LEN has LEN 0 (R86 check 2). -/
theorem Instr.len_eq_zero (i : Instr) (h : i.opcode.usesLen = false) : i.len = 0 := by
  cases i with
  | sha1Init | sha1Final | hmacKeyBegin | hmacKeyEnd | hmacInit | hmacFinal | keyClear | crcInit | zeroize => rfl
  | _ => cases h

/-- A command that uses no DKLEN has DKLEN 0 (R86 check 2). -/
theorem Instr.dklen_eq_zero (i : Instr) (h : i.opcode.usesDklen = false) : i.dklen = 0 := by
  cases i with
  | pbkdf2 n d => cases h
  | _ => rfl

/-- A mnemonic's command keeps the LEN it is given, if it uses one or is given 0. -/
theorem Opcode.instr_len {op : Opcode} {n : Count} (d : Count) (h : op.usesLen = false → n = 0) :
    (op.instr n d).len = n := by
  cases op with
  | sha1Init | sha1Final | hmacKeyBegin | hmacKeyEnd | hmacInit | hmacFinal | keyClear | crcInit | zeroize =>
    exact (h rfl).symm
  | _ => rfl

/-- A mnemonic's command keeps the DKLEN it is given, if it uses one or is given 0. -/
theorem Opcode.instr_dklen {op : Opcode} (n : Count) {d : Count} (h : op.usesDklen = false → d = 0) :
    (op.instr n d).dklen = d := by
  cases op with
  | pbkdf2 => rfl
  | _ => exact (h rfl).symm

/-- PBKDF2 alone uses DKLEN (R85). -/
theorem Opcode.usesDklen_eq_false {op : Opcode} (h : op ≠ .pbkdf2) : op.usesDklen = false := by
  cases op with
  | pbkdf2 => exact absurd rfl h
  | _ => rfl

/-- The range checks 3 and 4 of R86, by the fields that the opcode uses. -/
theorem Opcode.instr_wellFormed_iff (op : Opcode) (n d : Count) :
    (op.instr n d).wellFormed = true ↔ (op.usesLen = true → n.toNat ≤ 64) ∧
      (op.usesDklen = true → 1 ≤ d.toNat ∧ d.toNat ≤ 80) := by
  cases op <;> simp [instr, Instr.wellFormed, lenOk, dklenOk, usesLen, usesDklen]

/-! ### Words and their fields -/

/-- Check 2 of R86 passes when every reserved and every unused field is 0. -/
theorem reservedSet_eq_false (op : Opcode) (w : Word) :
    reservedSet op w = false ↔ rsv0Field w = 0 ∧ rsv1Field w = 0 ∧ (op.usesLen = false → lenField w = 0) ∧
      (op.usesDklen = false → dklenField w = 0) := by
  simp only [reservedSet, Bool.or_eq_false_iff, Bool.and_eq_false_imp, bne_eq_false_iff_eq, Bool.not_eq_true',
    and_assoc]

/-- The five fields are all of a word (R81). -/
theorem word_eq_of_fields {v w : Word} (hop : opcodeField v = opcodeField w) (hlen : lenField v = lenField w)
    (hdklen : dklenField v = dklenField w) (hrsv0 : rsv0Field v = rsv0Field w) (hrsv1 : rsv1Field v = rsv1Field w) :
    v = w := by
  apply BitVec.eq_of_toNat_eq
  simp only [← BitVec.toNat_inj, opcodeField_toNat, lenField_toNat, dklenField_toNat, rsv0Field_toNat,
    rsv1Field_toNat] at *
  omega

/-- Without its counts a command's word is its opcode: under the mask of PBKDF2, and, if DKLEN is 0, under that of the
LEN users (R86). -/
theorem commandWord_masked (op : Opcode) (n d : Count) :
    commandWord op n d &&& 0xFF8080FF = op.byte.setWidth 32 ∧
    commandWord op n 0 &&& 0xFFFF80FF = op.byte.setWidth 32 := by
  constructor <;>
  · apply BitVec.eq_of_getLsbD_eq
    intro i hi
    simp only [commandWord, BitVec.getLsbD_and, BitVec.getLsbD_or, BitVec.getLsbD_shiftLeft, BitVec.getLsbD_setWidth]
    generalize op.byte = b
    interval_cases i <;> simp

/-- With both counts 0 a command's word is its opcode. -/
theorem commandWord_zero_zero (op : Opcode) : commandWord op 0 0 = op.byte.setWidth 32 := by
  simp [commandWord]

/-! ### The decoder inverts the encoder -/

/-- A word decodes to a command exactly when its fields are the command's and its reserved fields are 0. -/
theorem decode_eq_ok_iff_fields (w : Word) (i : Instr) :
    decode w = .ok i ↔ opcodeField w = i.opcode.byte ∧ lenField w = i.len ∧ dklenField w = i.dklen ∧
      rsv0Field w = 0 ∧ rsv1Field w = 0 := by
  simp only [decode_eq_ok, Opcode.ofByte_eq_some, reservedSet_eq_false]
  constructor
  · rintro ⟨op, hop, ⟨hrsv0, hrsv1, hlen, hdklen⟩, rfl⟩
    rw [Opcode.instr_opcode, Opcode.instr_len _ hlen, Opcode.instr_dklen _ hdklen]
    exact ⟨hop.symm, rfl, rfl, hrsv0, hrsv1⟩
  · rintro ⟨hop, hlen, hdklen, hrsv0, hrsv1⟩
    refine ⟨i.opcode, hop.symm, ⟨hrsv0, hrsv1, ?_, ?_⟩, ?_⟩
    · rw [hlen]; exact i.len_eq_zero
    · rw [hdklen]; exact i.dklen_eq_zero
    · rw [hlen, hdklen, Instr.opcode_instr]

/-- The encoder puts a command's fields where the decoder reads them. -/
theorem decode_encode (i : Instr) : decode (encode i) = .ok i :=
  (decode_eq_ok_iff_fields _ i).mpr (commandWord_fields i.opcode i.len i.dklen)

/-- A word that decodes has the fields of its command's word, and so is that word. -/
theorem encode_eq_of_decode {w : Word} {i : Instr} (h : decode w = .ok i) : encode i = w := by
  obtain ⟨hop, hlen, hdklen, hrsv0, hrsv1⟩ := (decode_eq_ok_iff_fields w i).mp h
  obtain ⟨hop', hlen', hdklen', hrsv0', hrsv1'⟩ := commandWord_fields i.opcode i.len i.dklen
  exact word_eq_of_fields (hop'.trans hop.symm) (hlen'.trans hlen.symm) (hdklen'.trans hdklen.symm)
    (hrsv0'.trans hrsv0.symm) (hrsv1'.trans hrsv1.symm)

/-- The words of well-formed commands, by the four checks of R86. -/
theorem decode_wellFormed_iff (w : Word) :
    (∃ i, decode w = .ok i ∧ i.wellFormed = true) ↔
      ∃ op : Opcode, op.byte = opcodeField w ∧ reservedSet op w = false ∧
        (op.usesLen = true → (lenField w).toNat ≤ 64) ∧
        (op.usesDklen = true → 1 ≤ (dklenField w).toNat ∧ (dklenField w).toNat ≤ 80) := by
  simp only [decode_eq_ok, Opcode.ofByte_eq_some]
  constructor
  · rintro ⟨_, ⟨op, hop, hreserved, rfl⟩, hwf⟩
    exact ⟨op, hop, hreserved, (op.instr_wellFormed_iff _ _).mp hwf⟩
  · rintro ⟨op, hop, hreserved, hranges⟩
    exact ⟨_, ⟨op, hop, hreserved, rfl⟩, (op.instr_wellFormed_iff _ _).mpr hranges⟩

/-- The word of a mnemonic and its counts decodes to the mnemonic's command, if the unused counts are 0. -/
theorem decode_commandWord {op : Opcode} {n d : Count} (hn : op.usesLen = false → n = 0)
    (hd : op.usesDklen = false → d = 0) : decode (commandWord op n d) = .ok (op.instr n d) := by
  have hword : encode (op.instr n d) = commandWord op n d := by
    rw [encode, Opcode.instr_opcode, Opcode.instr_len d hn, Opcode.instr_dklen n hd]
  rw [← hword, decode_encode]

end Sys2Proof

namespace Sys2Proof.Machine

/-! ### The engine on a word that stands for no command -/

theorem engineStep_of_decode_error {s : State} {e : DecodeError} (h : decode s.pending = .error e) :
    engineStep s = .next { s with toBlock := s.toBlock.completeUndecoded e } := by
  rw [engineStep, h]

/-! ### The assembler's operands -/

/-- A LEN operand that is not refused: its value, its range, and 0 where the mnemonic uses none (R89). -/
theorem assembleLen_eq_some {op : Opcode} {len : Option Nat} {n : Count} (h : assembleLen op len = some n) :
    n.toNat = len.getD 0 ∧ n.toNat ≤ 64 ∧ (op.usesLen = false → n = 0) := by
  cases len with
  | none => cases h; exact ⟨rfl, Nat.zero_le _, fun _ => rfl⟩
  | some k =>
    simp only [assembleLen, Option.ite_none_right_eq_some, Option.some.injEq] at h
    obtain ⟨⟨huses, hk⟩, rfl⟩ := h
    have hval : (BitVec.ofNat 7 k).toNat = k := Nat.mod_eq_of_lt (hk.trans_lt (by decide))
    exact ⟨hval, hval.trans_le hk, fun h => absurd huses (ne_true_of_eq_false h)⟩

/-- A DKLEN operand that is not refused: its value, its range where the mnemonic uses one, and 0 elsewhere (R89). -/
theorem assembleDklen_eq_some {op : Opcode} {dklen : Option Nat} {d : Count} (h : assembleDklen op dklen = some d) :
    d.toNat = dklen.getD 0 ∧ (op.usesDklen = true → 1 ≤ d.toNat ∧ d.toNat ≤ 80) ∧
      (op.usesDklen = false → d = 0) := by
  cases dklen with
  | none =>
    simp only [assembleDklen, Option.ite_none_left_eq_some, Option.some.injEq] at h
    obtain ⟨huses, rfl⟩ := h
    exact ⟨rfl, fun h => absurd h huses, fun _ => rfl⟩
  | some k =>
    simp only [assembleDklen, Option.ite_none_right_eq_some, Option.some.injEq] at h
    obtain ⟨⟨huses, hlow, hhigh⟩, rfl⟩ := h
    have hval : (BitVec.ofNat 7 k).toNat = k := Nat.mod_eq_of_lt (hhigh.trans_lt (by decide))
    exact ⟨hval, fun _ => hval.symm ▸ ⟨hlow, hhigh⟩, fun h => absurd huses (ne_true_of_eq_false h)⟩

/-- The assembler emits the word of the two operands it accepts. -/
theorem assembleCmd_eq_some {op : Opcode} {len dklen : Option Nat} {w : Word} :
    assembleCmd op len dklen = some w ↔
      ∃ n d, assembleLen op len = some n ∧ assembleDklen op dklen = some d ∧ commandWord op n d = w := by
  unfold assembleCmd
  cases assembleLen op len <;> cases assembleDklen op dklen <;> simp

end Sys2Proof.Machine

namespace Sys2Proof.Claims

open Sys2Proof Sys2Proof.Machine

/-! ### The fields of R204 are the decoder's -/

theorem wordOp_eq (w : Word) : wordOp w = (opcodeField w).toNat := (opcodeField_toNat w).symm

theorem wordLen_eq (w : Word) : wordLen w = (lenField w).toNat := (lenField_toNat w).symm

theorem wordRsv0_eq (w : Word) : wordRsv0 w = (rsv0Field w).toNat := (rsv0Field_toNat w).symm

theorem wordDklen_eq (w : Word) : wordDklen w = (dklenField w).toNat := (dklenField_toNat w).symm

theorem wordRsv1_eq (w : Word) : wordRsv1 w = (rsv1Field w).toNat := (rsv1Field_toNat w).symm

/-- The 18 values of R85 are those that the opcode map knows. -/
theorem wordOp_mem_opcodes_iff (w : Word) : wordOp w ∈ opcodes ↔ ∃ op : Opcode, op.byte = opcodeField w := by
  have hlisted : ∀ b : Byte, b.toNat ∈ opcodes → (Opcode.ofByte b).isSome = true := by decide +kernel
  rw [wordOp_eq]
  constructor
  · intro h
    obtain ⟨op, hop⟩ := Option.isSome_iff_exists.mp (hlisted _ h)
    exact ⟨op, (Opcode.ofByte_eq_some _ _).mp hop⟩
  · rintro ⟨op, hop⟩
    rw [← hop]
    cases op <;> decide

/-- A word is refused as illegal exactly when its opcode is none of the 18 (R87). -/
theorem decode_illegal_iff (w : Word) : decode w = .error .illegalOpcode ↔ wordOp w ∉ opcodes := by
  simp only [decode_eq_illegal, Option.eq_none_iff_forall_ne_some, wordOp_mem_opcodes_iff, not_exists, ne_eq,
    Opcode.ofByte_eq_some]

theorem wordOp_mem_lenUsers_iff {w : Word} {op : Opcode} (h : op.byte = opcodeField w) :
    wordOp w ∈ lenUsers ↔ op.usesLen = true := by
  rw [wordOp_eq, ← h]
  cases op <;> decide

theorem wordOp_eq_pbkdf2_iff {w : Word} {op : Opcode} (h : op.byte = opcodeField w) :
    wordOp w = 0x20 ↔ op.usesDklen = true := by
  rw [wordOp_eq, ← h]
  cases op <;> decide

/-- R204's check 2 is the decoder's. -/
theorem reservedWord_eq_reservedSet {w : Word} {op : Opcode} (h : op.byte = opcodeField w) :
    reservedWord w = reservedSet op w := by
  have hzero {n : Nat} (f : BitVec n) : f.toNat = 0 ↔ f = 0 := by rw [← BitVec.toNat_inj]; rfl
  rw [Bool.eq_iff_iff]
  simp only [reservedWord, ne_eq, wordOp_mem_lenUsers_iff h, wordOp_eq_pbkdf2_iff h, wordRsv0_eq, wordRsv1_eq,
    wordLen_eq, wordDklen_eq, hzero, decide_eq_true_eq]
  simp only [reservedSet, Bool.or_eq_true, Bool.and_eq_true, bne_iff_ne, Bool.not_eq_true', ne_eq, Bool.not_eq_true,
    or_assoc, and_comm]

/-! ### The masks of R86 -/

/-- A word that decodes is its command's word, and so its opcode under the command's mask. -/
theorem decode_matches_mask {w : Word} {i : Instr} (h : decode w = .ok i) :
    if i.opcode = .pbkdf2 then w &&& 0xFF8080FF = i.opcode.byte.setWidth 32
    else if i.opcode.usesLen then w &&& 0xFFFF80FF = i.opcode.byte.setWidth 32
    else w = i.opcode.byte.setWidth 32 := by
  rw [← encode_eq_of_decode h, encode]
  split
  case isTrue => exact (commandWord_masked _ _ _).1
  case isFalse hne =>
    have hdklen : i.dklen = 0 := i.dklen_eq_zero (Opcode.usesDklen_eq_false hne)
    rw [hdklen]
    split
    case isTrue => exact (commandWord_masked _ _ 0).2
    case isFalse hlen => rw [i.len_eq_zero (by simpa using hlen), commandWord_zero_zero]

/-! ### The statements -/

/-- Settles O1: the encoder puts the command's fields where the decoder reads them. -/
theorem decodeReadsEncodedCommand : Obligations.DecodeReadsEncodedCommand := decode_encode

/-- Settles O2: a word that decodes has the fields of its command's word, and its fields are all of a word. -/
theorem encodeRebuildsDecodedWord : Obligations.EncodeRebuildsDecodedWord := fun _ _ => encode_eq_of_decode

/-- Settles O3: the first two checks are the decoder's, the other two are the ranges of `wellFormed`, and the masks are
those of the command's own word. -/
theorem wellFormedWordsFailNoCheck : Obligations.WellFormedWordsFailNoCheck := by
  refine ⟨fun w => ?_, fun w i => decode_matches_mask⟩
  rw [decode_wellFormed_iff, wordOp_mem_opcodes_iff, wordLen_eq, wordDklen_eq]
  constructor
  · rintro ⟨op, hop, hchecks⟩
    rw [reservedWord_eq_reservedSet hop, wordOp_mem_lenUsers_iff hop, wordOp_eq_pbkdf2_iff hop]
    exact ⟨⟨op, hop⟩, hchecks⟩
  · rintro ⟨⟨op, hop⟩, hchecks⟩
    rw [reservedWord_eq_reservedSet hop, wordOp_mem_lenUsers_iff hop, wordOp_eq_pbkdf2_iff hop] at hchecks
    exact ⟨op, hop, hchecks⟩

/-- Settles O4: the illegal ranges are the complement of the 18 opcodes, and a reserved bit fails the decoder's check 2,
whose completion sets the code whatever the opcode zeroes. -/
theorem illegalAndReservedWordsFail : Obligations.IllegalAndReservedWordsFail := by
  refine ⟨fun s hop => ?_, fun s hmem hrsv => ?_⟩
  · have hnot : wordOp s.pending ∉ opcodes := by
      simp only [opcodes, List.mem_cons, List.not_mem_nil, or_false]
      dsimp only at hop
      omega
    exact engineStep_of_decode_error ((decode_illegal_iff _).mpr hnot)
  · obtain ⟨op, hop⟩ := (wordOp_mem_opcodes_iff s.pending).mp hmem
    have hreserved : reservedSet op s.pending = true := by
      rw [← reservedWord_eq_reservedSet hop]
      simp only [reservedWord, decide_eq_true_eq]
      tauto
    have hdecode : decode s.pending = .error (.reservedBits op) :=
      (decode_eq_reserved _ op).mpr ⟨(Opcode.ofByte_eq_some _ _).mpr hop, hreserved⟩
    exact ⟨_, engineStep_of_decode_error hdecode, rfl, rfl⟩

/-- Settles O5: each word is evaluated. -/
theorem writtenWordsDecode : Obligations.WrittenWordsDecode := ⟨rfl, rfl, rfl, rfl, rfl, rfl, rfl⟩

/-- Settles O6: an operand that the assembler accepts is in its range, and 0 where the mnemonic uses none, so the
word is that of the mnemonic's command. -/
theorem assembledCommandsAreWellFormed : Obligations.AssembledCommandsAreWellFormed := by
  intro op len dklen w h
  obtain ⟨n, d, hn, hd, rfl⟩ := assembleCmd_eq_some.mp h
  obtain ⟨hlen, hlenRange, hlenUnused⟩ := assembleLen_eq_some hn
  obtain ⟨hdklen, hdklenRange, hdklenUnused⟩ := assembleDklen_eq_some hd
  refine ⟨op.instr n d, decode_commandWord hlenUnused hdklenUnused, ?_⟩
  rw [Opcode.instr_wellFormed_iff, Opcode.instr_opcode, Opcode.instr_len d hlenUnused,
    Opcode.instr_dklen n hdklenUnused]
  exact ⟨⟨fun _ => hlenRange, hdklenRange⟩, rfl, hlen, hdklen⟩

end Sys2Proof.Claims
end

section
/-! The outcome of a command as the statements of the command families say it: a success over the command's effect, the
first failing check's code, and RESERVED_BITS for a word whose reserved or unused bits are not all 0 (60_exceptions.md
R201-R205). -/

namespace Sys2Proof

/-- The bits of a command's word that must be 0 (30_encoding.md R86): all above the opcode and in no field of it. -/
def Opcode.reservedMask (op : Opcode) : Word :=
  if op = .pbkdf2 then 0xFF808000 else if op.usesLen then 0xFFFF8000 else 0xFFFFFF00

/-- An opcode in a word's low byte meets no reserved bit. -/
theorem Opcode.byte_and_reservedMask (op : Opcode) : op.byte.setWidth 32 &&& op.reservedMask = 0 := by
  cases op <;> decide

/-- The low byte of a word is its opcode (30_encoding.md R81). -/
theorem and_0xFF_eq_opcodeField (w : Word) : w &&& 0xFF = (opcodeField w).setWidth 32 := by
  apply BitVec.eq_of_getLsbD_eq
  intro i hi
  simp only [opcodeField, BitVec.getLsbD_and, BitVec.getLsbD_setWidth, BitVec.getLsbD_extractLsb']
  interval_cases i <;> simp

theorem and_0xFF_eq_byte_iff (w : Word) (op : Opcode) :
    w &&& 0xFF = op.byte.setWidth 32 ↔ opcodeField w = op.byte := by
  have hlt (b : Byte) : b.toNat % 2 ^ 32 = b.toNat := Nat.mod_eq_of_lt (b.isLt.trans (by decide))
  rw [and_0xFF_eq_opcodeField, ← BitVec.toNat_inj, ← BitVec.toNat_inj, BitVec.toNat_setWidth, BitVec.toNat_setWidth,
    hlt, hlt]

/-- A word that decodes has zeros under its opcode's mask of reserved bits. -/
theorem and_reservedMask_of_decode {w : Word} {i : Instr} (h : decode w = .ok i) : w &&& i.opcode.reservedMask = 0 := by
  have hbyte := i.opcode.byte_and_reservedMask
  have hmask := Claims.decode_matches_mask h
  unfold Opcode.reservedMask at hbyte ⊢
  split_ifs at hmask hbyte ⊢ <;> rw [← hmask] at hbyte
  · rwa [BitVec.and_assoc] at hbyte
  · rwa [BitVec.and_assoc] at hbyte
  · exact hbyte

/-- A word of a legal opcode with a reserved or unused bit set fails decode check 2. -/
theorem decode_of_reservedMask {w : Word} {op : Opcode} (hop : opcodeField w = op.byte)
    (hset : w &&& op.reservedMask ≠ 0) : decode w = .error (.reservedBits op) := by
  have hknown : Opcode.ofByte (opcodeField w) = some op := (Opcode.ofByte_eq_some _ _).mpr hop.symm
  cases hdec : decode w with
  | ok i =>
    obtain ⟨op', hop', -, rfl⟩ := (decode_eq_ok w i).mp hdec
    obtain rfl : op' = op := Option.some.inj (hop'.symm.trans hknown)
    have hzero := and_reservedMask_of_decode hdec
    rw [Opcode.instr_opcode] at hzero
    exact absurd hzero hset
  | error e =>
    cases e with
    | illegalOpcode => exact nomatch ((decode_eq_illegal w).mp hdec).symm.trans hknown
    | reservedBits op' =>
      obtain ⟨hop', -⟩ := (decode_eq_reserved w op').mp hdec
      rw [Option.some.inj (hop'.symm.trans hknown)]

end Sys2Proof

namespace Sys2Proof.Claims

open Sys2Proof Sys2Proof.Machine

/-- A word of any opcode with a reserved or unused bit set completes with RESERVED_BITS, over what the opcode zeroes on
every outcome. -/
theorem refusesReservedBits (op : Opcode) :
    RefusesReservedBits (op.byte.setWidth 32) op.reservedMask (Block.zeroKeySource op) := fun s hop hset =>
  engineStep_of_decode_error (decode_of_reservedMask ((and_0xFF_eq_byte_iff s.pending op).mp hop) hset)

/-- A command whose checks all pass finishes over its effect. -/
theorem exec_finished {i : Instr} {s : State} (h : firstError (checksOf i s.toBlock) = none) :
    exec i s = .next (finished s ((effectOf i s.toBlock).zeroKeySource i.opcode)) := exec_ok h

/-- A command that fails a check does so with the first failing check's code. -/
theorem exec_failed {i : Instr} {s : State} {e : CmdError} (h : firstError (checksOf i s.toBlock) = some e) :
    exec i s = .next (failed s e.code (s.zeroKeySource i.opcode)) := exec_err h

/-- A result no longer than `out` stands in it with zeros after it. -/
theorem holdsThenZeros_padTo {d : List Byte} (h : d.length ≤ 80) : HoldsThenZeros (padTo 80 d) d :=
  padTo_toList_of_le h

theorem HoldsThenZeros.take_eq {o : Vector Byte 80} {d : List Byte} {k : Nat} (h : HoldsThenZeros o d)
    (hk : d.length = k) : o.toList.take k = d := by
  rw [h, List.take_left' hk]

end Sys2Proof.Claims
end

section
/-! The SHA-1 message schedule (40_sha1.md R112), by the list that `extendSchedule` builds newest word first, and the
padding of a context (R115), by the compressions that absorbing it takes. -/

namespace Sys2Proof.Machine

/-! ### The schedule, newest word first -/

@[simp] theorem length_extendSchedule (k : Nat) (ws : List Word) : (extendSchedule k ws).length = ws.length + k := by
  induction k generalizing ws with
  | zero => rfl
  | succ k ih => rw [extendSchedule, ih, List.length_cons]; omega

/-- The words there at the start stand behind the `k` new ones. -/
theorem drop_extendSchedule (k : Nat) (ws : List Word) : (extendSchedule k ws).drop k = ws := by
  induction k generalizing ws with
  | zero => rfl
  | succ k ih => rw [extendSchedule, ← List.drop_drop, ih, List.drop_one, List.tail_cons]

/-- Each new word is the recurrence on the words behind it. -/
theorem getD_extendSchedule {k i : Nat} (ws : List Word) (hi : i < k) :
    (extendSchedule k ws).getD i 0 = nextWord ((extendSchedule k ws).drop (i + 1)) := by
  induction k generalizing ws with
  | zero => omega
  | succ k ih =>
    rcases Nat.lt_succ_iff_lt_or_eq.mp hi with hlt | rfl
    · exact ih _ hlt
    · rw [drop_extendSchedule, extendSchedule, List.getD_eq_getElem?_getD, ← List.head?_drop, drop_extendSchedule]
      rfl

/-! ### The schedule in order -/

theorem length_schedule (blk : List Byte) : (schedule blk).length = 80 := by
  simp [schedule]

/-- The first 16 words are those of the block. -/
theorem getD_schedule_of_lt {blk : List Byte} {t : Nat} (ht : t < 16) : (schedule blk).getD t 0 = blockWord blk t := by
  have hsplit := List.take_append_drop 64 (extendSchedule 64 ((List.range 16).map (blockWord blk)).reverse)
  rw [drop_extendSchedule] at hsplit
  rw [schedule, ← hsplit, List.reverse_append, List.reverse_reverse, List.getD_append _ _ _ _ (by simpa using ht)]
  simp [List.getD_eq_getElem?_getD, ht]

/-- A later word is the recurrence on the words 3, 8, 14 and 16 before it. -/
theorem getD_schedule_of_ge {blk : List Byte} {t : Nat} (ht : 16 ≤ t) (ht' : t < 80) :
    (schedule blk).getD t 0 = rol ((schedule blk).getD (t - 3) 0 ^^^ (schedule blk).getD (t - 8) 0
      ^^^ (schedule blk).getD (t - 14) 0 ^^^ (schedule blk).getD (t - 16) 0) 1 := by
  have hrev : ∀ u < 80, (schedule blk).getD u 0 =
      (extendSchedule 64 ((List.range 16).map (blockWord blk)).reverse).getD (79 - u) 0 := by
    intro u hu
    rw [schedule, List.getD_reverse _ (by simpa using hu)]
    simp
  have hback (j : Nat) (hj : j + 1 ≤ 16) : 79 - (t - (j + 1)) = 79 - t + 1 + j := by omega
  rw [hrev t ht', hrev _ (by omega), hrev _ (by omega), hrev _ (by omega), hrev _ (by omega),
    getD_extendSchedule _ (by omega), nextWord, hback 2 (by omega), hback 7 (by omega), hback 13 (by omega),
    hback 15 (by omega)]
  simp only [List.getD_eq_getElem?_getD, List.getElem?_drop]

/-- The block's own rotation is the word's rotation. -/
theorem rol_eq_rotateLeft (x : Word) : rol x 1 = x.rotateLeft 1 := rfl

/-! ### Absorbing by compressions -/

/-- Bytes that reach the end of the block compress it once, and the rest of them starts the next block. -/
theorem foldl_absorbByte_first_block (m : List Byte) (c : Ctx) (hc : c.blk.length < 64)
    (h : 64 ≤ c.blk.length + m.length) :
    m.foldl absorbByte c =
      ((c.blk ++ m).drop 64).foldl absorbByte { c with h := compress c.h ((c.blk ++ m).take 64), blk := [] } := by
  have hfill : c.blk.length + (m.take (64 - c.blk.length)).length = 64 := by
    rw [List.length_take_of_le (by omega)]; omega
  rw [List.take_append, List.drop_append, List.take_of_length_le hc.le, List.drop_of_length_le hc.le, List.nil_append,
    ← foldl_absorbByte_fill _ c hc hfill, ← List.foldl_append, List.take_append_drop]

/-- At most 64 bytes take at most one compression (40_sha1.md R121). -/
theorem absorb_eq_absorbedOnce {c : Ctx} {m : List Byte} (hc : c.blk.length < 64) (hm : m.length ≤ 64) :
    absorb c m = Claims.absorbedOnce c m := by
  unfold absorb Claims.absorbedOnce
  split
  case isTrue hshort => rw [foldl_absorbByte_short m c hshort]
  case isFalse hlong =>
    rw [foldl_absorbByte_first_block m c hc (by omega), foldl_absorbByte_short _ _ (by simp; omega), List.nil_append]

/-- Bytes that just fill the block take one compression. -/
theorem absorb_h_of_one_block {c : Ctx} {m : List Byte} (hc : c.blk.length < 64) (h : c.blk.length + m.length = 64) :
    (absorb c m).h = compress c.h (c.blk ++ m) := by
  rw [absorb, foldl_absorbByte_fill m c hc h]

/-- Bytes that just fill the block and another one take two compressions. -/
theorem absorb_h_of_two_blocks {c : Ctx} {m : List Byte} (hc : c.blk.length < 64) (h : c.blk.length + m.length = 128) :
    (absorb c m).h = compress (compress c.h ((c.blk ++ m).take 64)) ((c.blk ++ m).drop 64) := by
  rw [absorb, foldl_absorbByte_first_block m c hc (by omega),
    foldl_absorbByte_fill _ _ (by simp) (by simp; omega), List.nil_append]

end Sys2Proof.Machine

namespace Sys2Proof.Claims

open Sys2Proof Sys2Proof.Machine

/-! ### The padding -/

theorem padZeros_cast (k : Nat) : (padZeros k : Int) = (55 - (k : Int)) % 64 := by
  unfold padZeros; omega

/-- With the partial block the padding makes one block, or two when its 9 bytes do not fit the first. -/
theorem length_add_padding {c : Ctx} (hc : c.blk.length < 64) :
    c.blk.length + (padding c).length = if c.blk.length ≤ 55 then 64 else 128 := by
  simp only [padding, copies, padZeros_eq _ hc, List.length_cons, List.length_append, List.length_replicate,
    be64_length]
  split <;> omega

theorem absorb_padding_blk {c : Ctx} (hc : c.blk.length < 64) : (absorb c (padding c)).blk = [] := by
  rw [← List.length_eq_zero_iff, absorb_blk_length c _ hc, length_add_padding_mod c hc]

/-! ### The statements -/

/-- Settles O33: newest first, the schedule is built by the recurrence on the words behind, and it ends in the block's
words. -/
theorem scheduleFollowsRecurrence : Obligations.ScheduleFollowsRecurrence := fun blk =>
  ⟨length_schedule blk, fun _ => getD_schedule_of_lt,
    fun _ ht ht' => (getD_schedule_of_ge ht ht').trans (rol_eq_rotateLeft _)⟩

/-- Settles O35: the statement's padding is the model's, and its length with the partial block is 64 or 128. -/
theorem finalizePadsToBlockBoundary : Obligations.FinalizePadsToBlockBoundary := by
  intro c hc
  refine ⟨padZeros c.blk.length, padZeros_cast _, ?_⟩
  have hcount : BitVec.ofNat 64 (8 * c.len % 2 ^ 64) = BitVec.ofNat 64 (8 * c.len) :=
    BitVec.eq_of_toNat_eq (by simp only [BitVec.toNat_ofNat, Nat.mod_mod])
  have hpad : 0x80 :: (List.replicate (padZeros c.blk.length) 0 ++ be64 (BitVec.ofNat 64 (8 * c.len % 2 ^ 64))) =
      padding c := by
    rw [padding, bitLength, copies, hcount]
  have hlen := length_add_padding hc
  rw [hpad]
  exact ⟨absorb_padding_blk hc, rfl, fun hone => absorb_h_of_one_block hc (hlen.trans (if_pos hone)),
    fun htwo => absorb_h_of_two_blocks hc (hlen.trans (if_neg (by omega)))⟩

end Sys2Proof.Claims
end

section
/-! The SHA-1 commands (40_sha1.md R120-R124): the outcome of each by the first check it fails, and a message absorbed
over any number of updates. -/

namespace Sys2Proof.Machine

/-! ### The first check that fails -/

theorem firstError_cons_of_passes {c : Check} (h : c.1 = false) (rest : List Check) :
    firstError (c :: rest) = firstError rest := by
  rw [firstError_cons, if_neg (ne_true_of_eq_false h)]

theorem firstError_cons_of_fails {c : Check} (h : c.1 = true) (rest : List Check) :
    firstError (c :: rest) = some c.2 := by
  rw [firstError_cons, if_pos h]

theorem checkCtx_fails (b : Block) (m : CtxMode) : (checkCtx b m).1 = true ↔ b.ctx.mode ≠ m := by
  rw [← Bool.not_eq_false, checkCtx_passes]

theorem checkLength_fails (total : Nat) : (checkLength total).1 = true ↔ 2 ^ 61 - 1 < total := by
  rw [← Bool.not_eq_false, checkLength_passes, Nat.not_le]

theorem message_checks_badLen {n : Count} (b : Block) (m : CtxMode) (hn : 64 < n.toNat) :
    firstError [checkLen n, checkCtx b m, checkLength (b.ctx.len + n.toNat)] = some .badLen :=
  firstError_cons_of_fails ((checkLen_fails n).mpr hn) _

theorem message_checks_badState {n : Count} {b : Block} {m : CtxMode} (hn : n.toNat ≤ 64) (hmode : b.ctx.mode ≠ m) :
    firstError [checkLen n, checkCtx b m, checkLength (b.ctx.len + n.toNat)] = some .badState :=
  (firstError_cons_of_passes ((checkLen_passes n).mpr hn) _).trans
    (firstError_cons_of_fails ((checkCtx_fails b m).mpr hmode) _)

theorem message_checks_lengthOverflow {n : Count} {b : Block} {m : CtxMode} (hn : n.toNat ≤ 64)
    (hmode : b.ctx.mode = m) (hlen : 2 ^ 61 - 1 < b.ctx.len + n.toNat) :
    firstError [checkLen n, checkCtx b m, checkLength (b.ctx.len + n.toNat)] = some .lengthOverflow :=
  (firstError_cons_of_passes ((checkLen_passes n).mpr hn) _).trans
    ((firstError_cons_of_passes ((checkCtx_passes b m).mpr hmode) _).trans
      (firstError_cons_of_fails ((checkLength_fails _).mpr hlen) _))

end Sys2Proof.Machine

namespace Sys2Proof.Claims

open Sys2Proof Sys2Proof.Machine

/-! ### A message absorbed in pieces -/

/-- The command `mk n` absorbs `inbuf[0..n)` into a message of mode `m`, within the limit of R118. -/
def AbsorbsInto (mk : Count → Instr) (m : CtxMode) : Prop :=
  ∀ (s : State) (n : Count), n.toNat ≤ 64 → s.ctx.mode = m → s.ctx.len + n.toNat ≤ 2 ^ 61 - 1 →
    exec (mk n) s = .next (finished s { s.toBlock with ctx := absorb s.ctx (s.inBytes n) })

theorem sha1Update_absorbsInto : AbsorbsInto .sha1Update .sha := fun s n hn hmode hlen =>
  exec_finished (i := .sha1Update n) ((message_checks_pass n s.toBlock .sha).mpr ⟨hn, hmode, hlen⟩)

theorem Piece.bytes_length {p : Piece} (h : p.2.toNat ≤ 64) : p.bytes.length = p.2.toNat := by
  rw [Piece.bytes, List.length_take, Vector.length_toList, Nat.min_eq_left h]

@[simp] theorem message_cons (p : Piece) (ps : List Piece) : message (p :: ps) = p.bytes ++ message ps := rfl

/-- One update per piece absorbs the whole message, and touches no key (40_sha1.md R124). -/
theorem feed_absorbs {mk : Count → Instr} {m : CtxMode} (hmk : AbsorbsInto mk m) (ps : List Piece) (s : State)
    (hps : ∀ p ∈ ps, p.2.toNat ≤ 64) (hmode : s.ctx.mode = m) (hlen : s.ctx.len + (message ps).length ≤ 2 ^ 61 - 1) :
    ∃ t, feed mk ps s = .next t ∧ t.ctx = absorb s.ctx (message ps) ∧ t.key = s.key := by
  induction ps generalizing s with
  | nil => exact ⟨s, rfl, rfl, rfl⟩
  | cons p ps ih =>
    obtain ⟨hp, hrest⟩ := List.forall_mem_cons.mp hps
    rw [message_cons, List.length_append, ← Nat.add_assoc] at hlen
    have hpiece := Piece.bytes_length hp
    have hexec := hmk { s with inbuf := p.1 } p.2 hp hmode (by dsimp only; omega)
    obtain ⟨t, hfeed, hctx, hkey⟩ := ih
      (finished { s with inbuf := p.1 } { s.toBlock with inbuf := p.1, ctx := absorb s.ctx p.bytes })
      hrest ((absorb_mode _ _).trans hmode) hlen
    refine ⟨t, ?_, ?_, hkey⟩
    · rw [feed, hexec]
      exact hfeed
    · rw [hctx, message_cons, absorb_append]
      rfl

/-! ### The commands -/

/-- Settles O36: SHA1_INIT has no check. -/
theorem sha1InitStartsMessage : Obligations.Sha1InitStartsMessage :=
  ⟨fun _ => exec_finished (i := .sha1Init) firstError_nil, refusesReservedBits .sha1Init⟩

/-- Settles O37, by the first check that fails; at most 64 bytes take at most one compression. -/
theorem sha1UpdateAbsorbs : Obligations.Sha1UpdateAbsorbs := by
  refine ⟨fun s n => ⟨fun hn hmode hblk hlen => ?_, fun hn => ?_, fun hn hmode => ?_, fun hn hmode hlen => ?_⟩,
    refusesReservedBits .sha1Update⟩
  · have honce : absorb s.ctx (s.inBytes n) = absorbedOnce s.ctx (s.inbuf.toList.take n.toNat) :=
      absorb_eq_absorbedOnce hblk ((s.inBytes_length_le n).trans hn)
    rw [← honce]
    exact sha1Update_absorbsInto s n hn hmode hlen
  · exact exec_failed (i := .sha1Update n) (message_checks_badLen s.toBlock .sha hn)
  · exact exec_failed (i := .sha1Update n) (message_checks_badState hn hmode)
  · exact exec_failed (i := .sha1Update n) (message_checks_lengthOverflow hn hmode hlen)

/-- Settles O38, by the check of the context's mode. -/
theorem sha1FinalOutputsDigest : Obligations.Sha1FinalOutputsDigest := by
  refine ⟨fun s => ⟨fun hmode => ⟨_, holdsThenZeros_padTo (by simp), ?_⟩, fun hmode => ?_⟩,
    refusesReservedBits .sha1Final⟩
  · exact exec_finished (i := .sha1Final) (firstError_cons_of_passes ((checkCtx_passes s.toBlock .sha).mpr hmode) [])
  · exact exec_failed (i := .sha1Final) (firstError_cons_of_fails ((checkCtx_fails s.toBlock .sha).mpr hmode) [])

/-- Settles O39, by the check of LEN. -/
theorem sha1OneshotOutputsDigest : Obligations.Sha1OneshotOutputsDigest := by
  refine ⟨fun s n => ⟨fun hn => ⟨_, holdsThenZeros_padTo (by simp), ?_⟩, fun hn => ?_⟩,
    refusesReservedBits .sha1Oneshot⟩
  · exact exec_finished (i := .sha1Oneshot n) (firstError_cons_of_passes ((checkLen_passes n).mpr hn) [])
  · exact exec_failed (i := .sha1Oneshot n) (firstError_cons_of_fails ((checkLen_fails n).mpr hn) [])

/-- Settles O40: INIT leaves the fresh context, the updates absorb the message into it, and FINAL outputs its digest,
which is the definition of `sha1`. -/
theorem sha1SplittingKeepsDigest : Obligations.Sha1SplittingKeepsDigest := by
  obtain ⟨hinit, -⟩ := sha1InitStartsMessage
  obtain ⟨hfinal, -⟩ := sha1FinalOutputsDigest
  obtain ⟨honeshot, -⟩ := sha1OneshotOutputsDigest
  refine ⟨fun s ps hps hlen => ?_, fun s n hn => ?_⟩
  · obtain ⟨t, hfeed, hctx, -⟩ := feed_absorbs sha1Update_absorbsInto ps
      (finished s { s.toBlock with ctx := ctxSha0 }) hps rfl (by simpa [finished, ctxSha0] using hlen)
    obtain ⟨hdigest, -⟩ := hfinal t
    obtain ⟨o, ho, hexec⟩ := hdigest (by rw [hctx, absorb_mode]; rfl)
    have hseq : andThen (andThen (exec .sha1Init s) (feed .sha1Update ps)) (exec .sha1Final) = exec .sha1Final t := by
      rw [hinit]
      exact congrArg (andThen · (exec .sha1Final)) hfeed
    refine ⟨_, hseq.trans hexec, rfl, ?_⟩
    exact (ho.take_eq (finalize_length _)).trans (by rw [hctx]; rfl)
  · obtain ⟨hdigest, -⟩ := honeshot s n
    obtain ⟨o, ho, hexec⟩ := hdigest hn
    exact ⟨_, hexec, ho.take_eq (sha1_length _)⟩

end Sys2Proof.Claims
end

section
/-! The HMAC function (41_hmac.md R141-R145): hashing from a key state is hashing a message behind one key block, and
the accumulator holds the key bytes appended to it. -/

namespace Sys2Proof.Machine

/-! ### Hashing behind a key block -/

/-- The digest of bytes absorbed from a block boundary, by the chaining value and the byte count there: the mode plays
no part. -/
theorem finalize_absorb_of_blk_nil {c : Ctx} (m : List Byte) (hc : c.blk = []) :
    finalize (absorb c m) = digest (Claims.chainBlocks c.h
      (m ++ 0x80 :: (copies 0 (padZeros (m.length % 64)) ++ be64 (bitLength (c.len + m.length))))) := by
  have hblk : (absorb c m).blk.length = m.length % 64 := by
    rw [absorb_blk_length c m (by simp [hc]), hc, List.length_nil, Nat.zero_add]
  rw [finalize, ← absorb_append, Claims.absorb_h_eq_chainBlocks c _ hc, padding, hblk, absorb_len]

/-- One block absorbed by the fresh context is one compression. -/
theorem absorb_ctxSha0_block {b : List Byte} (hb : b.length = 64) :
    absorb ctxSha0 b = { mode := .sha, h := compress hInit b, blk := [], len := 64 } := by
  rw [absorb, foldl_absorbByte_fill b ctxSha0 (Nat.zero_lt_succ 63) ((Nat.zero_add _).trans hb), hb]
  rfl

/-- A key state stands for a SHA-1 message that began with the key block (41_hmac.md R144, R145). -/
theorem finalize_absorb_hctx {b : List Byte} (m : List Byte) (hb : b.length = 64) :
    finalize (absorb (hctx (compress hInit b)) m) = sha1 (b ++ m) := by
  rw [sha1, absorb_append, absorb_ctxSha0_block hb, finalize_absorb_of_blk_nil m rfl, finalize_absorb_of_blk_nil m rfl]
  rfl

end Sys2Proof.Machine

namespace Sys2Proof.Claims

open Sys2Proof Sys2Proof.Machine

/-! ### The key accumulator -/

theorem accumulated_of_short {k : List Byte} (h : k.length ≤ 64) : accumulated k = .short k := if_pos h

theorem accumulated_of_long {k : List Byte} (h : 64 < k.length) : accumulated k = .long (absorb ctxSha0 k) :=
  if_neg (Nat.not_le.mpr h)

theorem klen_accumulated (k : List Byte) : klen (accumulated k) = k.length := by
  rcases Nat.lt_or_ge 64 k.length with hlong | hshort
  · rw [accumulated_of_long hlong]
    exact Nat.zero_add _
  · rw [accumulated_of_short hshort]
    rfl

/-- Appending to the accumulator of `k` gives the accumulator of the longer key (41_hmac.md R142). -/
theorem kappend_accumulated (k m : List Byte) : kappend (accumulated k) m = accumulated (k ++ m) := by
  rcases Nat.lt_or_ge 64 k.length with hlong | hshort
  · rw [accumulated_of_long hlong, accumulated_of_long (by rw [List.length_append]; omega), absorb_append]
    rfl
  · rw [accumulated_of_short hshort, kappend, accumulated, List.length_append]

/-- The accumulator of `k` ends in the padded key `K0(k)` (41_hmac.md R141, R143). -/
theorem kfinal_accumulated (k : List Byte) : kfinal (accumulated k) = paddedKey k := by
  rcases Nat.lt_or_ge 64 k.length with hlong | hshort
  · rw [accumulated_of_long hlong, paddedKey, if_neg (Nat.not_le.mpr hlong)]
    rfl
  · rw [accumulated_of_short hshort, paddedKey, if_pos hshort]
    rfl

/-! ### The nested form -/

/-- Settles O50: both key states stand for a message that began with one key block, the padded key XOR a pad. -/
theorem hmacMatchesNestedForm : Obligations.HmacMatchesNestedForm := by
  intro k m
  have hblock (c : Byte) : (xorBytes (paddedKey k) (copies c 64)).length = 64 := by simp
  have hipad : (xorBytes (paddedKey k) ipad).length = 64 := hblock 0x36
  have hopad : (xorBytes (paddedKey k) opad).length = 64 := hblock 0x5C
  calc hmac k m
      = hmacOuter (outerKey (paddedKey k)) (sha1 (xorBytes (paddedKey k) ipad ++ m)) := by
        rw [hmac, hmacK, innerKey, finalize_absorb_hctx m hipad]
    _ = sha1 (xorBytes (paddedKey k) opad ++ sha1 (xorBytes (paddedKey k) ipad ++ m)) := by
        rw [hmacOuter, outerKey, finalize_absorb_hctx _ hopad]

end Sys2Proof.Claims
end

section
/-! The HMAC commands (41_hmac.md R146-R155): the outcome of each by the first check it fails, and a key and a message
absorbed in pieces. -/

namespace Sys2Proof.Machine

/-! ### The first check that fails -/

theorem checkKey_fails (b : Block) : (checkKey b).1 = true ↔ b.key.kmode ≠ .ready := by
  rw [← Bool.not_eq_false, checkKey_passes]

theorem checkLoading_fails (b : Block) : (checkLoading b).1 = true ↔ b.key.kmode ≠ .loading := by
  rw [← Bool.not_eq_false, checkLoading_passes]

end Sys2Proof.Machine

namespace Sys2Proof.Claims

open Sys2Proof Sys2Proof.Machine

/-- A command with the checks of a key absorb gives BAD_LEN, BAD_STATE or LENGTH_OVERFLOW, in that order, over what it
zeroes on every outcome (41_hmac.md R147, R148). -/
theorem keyAbsorb_failed {i : Instr} {n : Count} {s : State}
    (hchecks : checksOf i s.toBlock = [checkLen n, checkLoading s.toBlock, checkLength (klen s.key.kacc + n.toNat)]) :
    (64 < n.toNat → exec i s = .next (failed s 3 (s.zeroKeySource i.opcode))) ∧
    (n.toNat ≤ 64 → s.key.kmode ≠ .loading → exec i s = .next (failed s 7 (s.zeroKeySource i.opcode))) ∧
    (n.toNat ≤ 64 → s.key.kmode = .loading → 2 ^ 61 - 1 < klen s.key.kacc + n.toNat →
      exec i s = .next (failed s 8 (s.zeroKeySource i.opcode))) := by
  refine ⟨fun hn => exec_failed (e := .badLen) ?_, fun hn hmode => exec_failed (e := .badState) ?_,
    fun hn hmode hlen => exec_failed (e := .lengthOverflow) ?_⟩
  · rw [hchecks, firstError_cons_of_fails ((checkLen_fails n).mpr hn)]
    rfl
  · rw [hchecks, firstError_cons_of_passes ((checkLen_passes n).mpr hn),
      firstError_cons_of_fails ((checkLoading_fails s.toBlock).mpr hmode)]
    rfl
  · rw [hchecks, firstError_cons_of_passes ((checkLen_passes n).mpr hn),
      firstError_cons_of_passes ((checkLoading_passes s.toBlock).mpr hmode),
      firstError_cons_of_fails ((checkLength_fails _).mpr hlen)]
    rfl

/-! ### A key loaded in pieces -/

/-- The command `i` with LEN `n` appends the bytes it takes from the block to a key being loaded, within the limit of
R118, and zeroes their buffer. -/
def AppendsToKey (i : Instr) (n : Count) (bytes : Block → List Byte) : Prop :=
  ∀ s : State, n.toNat ≤ 64 → s.key.kmode = .loading → klen s.key.kacc + n.toNat ≤ 2 ^ 61 - 1 →
    exec i s = .next (finished s (Block.zeroKeySource i.opcode
      { s.toBlock with key := { s.key with kacc := kappend s.key.kacc (bytes s.toBlock) } }))

theorem hmacKeyAbsorb_appendsToKey (n : Count) : AppendsToKey (.hmacKeyAbsorb n) n (·.inBytes n) :=
  fun s hn hmode hlen => exec_finished ((key_checks_pass n s.toBlock).mpr ⟨hn, hmode, hlen⟩)

theorem hmacKeyAbsorbOut_appendsToKey (n : Count) : AppendsToKey (.hmacKeyAbsorbOut n) n (·.outBytes n) :=
  fun s hn hmode hlen => exec_finished ((key_checks_pass n s.toBlock).mpr ⟨hn, hmode, hlen⟩)

/-- The key state while a key is being loaded, `k` so far (41_hmac.md R146, R147). -/
def loadingKey (k : List Byte) : Key :=
  { kmode := .loading, iks := Chain.zero, oks := Chain.zero, kacc := accumulated k }

/-- Appending to a loading key loads the longer key. -/
theorem AppendsToKey.loads {i : Instr} {n : Count} {bytes : Block → List Byte} (h : AppendsToKey i n bytes) {s : State}
    {k : List Byte} (hn : n.toNat ≤ 64) (hkey : s.key = loadingKey k) (hlen : k.length + n.toNat ≤ 2 ^ 61 - 1) :
    ∃ t, exec i s = .next t ∧ t.key = loadingKey (k ++ bytes s.toBlock) := by
  refine ⟨_, h s hn (by rw [hkey]; rfl) (by rwa [hkey, loadingKey, klen_accumulated]), ?_⟩
  simp only [finished, Block.zeroKeySource_key, hkey, loadingKey, kappend_accumulated]

theorem KeyPiece.bytes_length {p : KeyPiece} (h : p.count.toNat ≤ 64) : p.bytes.length = p.count.toNat := by
  cases p with
  | fromIn buf n => exact List.length_take_of_le (h.trans_eq buf.length_toList.symm)
  | fromOut buf n => exact List.length_take_of_le ((h.trans (by decide)).trans_eq buf.length_toList.symm)

@[simp] theorem keyOf_cons (p : KeyPiece) (ps : List KeyPiece) : keyOf (p :: ps) = p.bytes ++ keyOf ps := rfl

/-- The absorb of one key piece, on the buffer the piece names. -/
def KeyPiece.absorb : KeyPiece → State → Answer
  | .fromIn buf n, s => exec (.hmacKeyAbsorb n) { s with inbuf := buf }
  | .fromOut buf n, s => exec (.hmacKeyAbsorbOut n) { s with out := buf }

theorem feedKey_cons (p : KeyPiece) (ps : List KeyPiece) (s : State) :
    feedKey (p :: ps) s = andThen (p.absorb s) (feedKey ps) := by
  cases p <;> rfl

/-- A piece from either buffer is appended to the key being loaded. -/
theorem KeyPiece.absorb_loads {p : KeyPiece} {s : State} {k : List Byte} (hp : p.count.toNat ≤ 64)
    (hkey : s.key = loadingKey k) (hlen : k.length + p.count.toNat ≤ 2 ^ 61 - 1) :
    ∃ t, p.absorb s = .next t ∧ t.key = loadingKey (k ++ p.bytes) := by
  cases p with
  | fromIn buf n => exact (hmacKeyAbsorb_appendsToKey n).loads (s := { s with inbuf := buf }) hp hkey hlen
  | fromOut buf n => exact (hmacKeyAbsorbOut_appendsToKey n).loads (s := { s with out := buf }) hp hkey hlen

/-- One absorb per piece loads the whole key (41_hmac.md R155). -/
theorem feedKey_loads (ps : List KeyPiece) {s : State} {k : List Byte} (hps : ∀ p ∈ ps, p.count.toNat ≤ 64)
    (hkey : s.key = loadingKey k) (hlen : k.length + (keyOf ps).length ≤ 2 ^ 61 - 1) :
    ∃ t, feedKey ps s = .next t ∧ t.key = loadingKey (k ++ keyOf ps) := by
  induction ps generalizing s k with
  | nil => exact ⟨s, rfl, by rw [hkey, keyOf, List.flatMap_nil, List.append_nil]⟩
  | cons p ps ih =>
    obtain ⟨hp, hrest⟩ := List.forall_mem_cons.mp hps
    rw [keyOf_cons, List.length_append, ← Nat.add_assoc] at hlen
    have hpiece := KeyPiece.bytes_length hp
    obtain ⟨u, habsorb, hu⟩ := KeyPiece.absorb_loads (s := s) hp hkey (by omega)
    obtain ⟨t, hfeed, ht⟩ := ih hrest hu (by rwa [List.length_append])
    refine ⟨t, ?_, ?_⟩
    · rw [feedKey_cons, habsorb]
      exact hfeed
    · rw [ht, keyOf_cons, List.append_assoc]

/-! ### The key commands -/

/-- Settles O41, by the check that no HMAC message is in progress. -/
theorem hmacKeyBeginStartsEmptyKey : Obligations.HmacKeyBeginStartsEmptyKey := by
  refine ⟨fun s => ⟨fun hmode => ?_, fun hmode => ?_⟩, refusesReservedBits .hmacKeyBegin⟩
  · exact exec_finished (i := .hmacKeyBegin) (firstError_cons_of_passes (beq_eq_false_iff_ne.mpr hmode) [])
  · exact exec_failed (i := .hmacKeyBegin) (firstError_cons_of_fails (beq_iff_eq.mpr hmode) [])

/-- Settles O42: the bytes of `inbuf` are appended as R142 says, by the accumulator's two forms. -/
theorem hmacKeyAbsorbAppends : Obligations.HmacKeyAbsorbAppends := by
  refine ⟨fun s n => ⟨fun hn hmode hlen => ?_, keyAbsorb_failed (i := .hmacKeyAbsorb n) rfl⟩,
    refusesReservedBits .hmacKeyAbsorb⟩
  have happend := hmacKeyAbsorb_appendsToKey n s hn hmode hlen
  cases hacc : s.key.kacc with
  | short k => rwa [hacc] at happend
  | long c => rwa [hacc] at happend

/-- Settles O43: the bytes of `out` are appended as R142 says, by the accumulator's two forms. -/
theorem hmacKeyAbsorbOutAppends : Obligations.HmacKeyAbsorbOutAppends := by
  refine ⟨fun s n => ⟨fun hn hmode hlen => ?_, keyAbsorb_failed (i := .hmacKeyAbsorbOut n) rfl⟩,
    refusesReservedBits .hmacKeyAbsorbOut⟩
  have happend := hmacKeyAbsorbOut_appendsToKey n s hn hmode hlen
  cases hacc : s.key.kacc with
  | short k => rwa [hacc] at happend
  | long c => rwa [hacc] at happend

/-- Settles O44: the accumulator of `k` ends in `K0(k)`, and both key states are compressed from it. -/
theorem hmacKeyEndPrecomputesKeyState : Obligations.HmacKeyEndPrecomputesKeyState := by
  refine ⟨fun s => ⟨fun hmode => ?_, fun hmode => ?_⟩, fun k => ?_, refusesReservedBits .hmacKeyEnd⟩
  · exact exec_finished (i := .hmacKeyEnd)
      (firstError_cons_of_passes ((checkLoading_passes s.toBlock).mpr hmode) [])
  · exact exec_failed (i := .hmacKeyEnd) (firstError_cons_of_fails ((checkLoading_fails s.toBlock).mpr hmode) [])
  · exact kfinal_accumulated k

/-- Settles O49: KEY_CLEAR has no check. -/
theorem keyClearZeroizesKey : Obligations.KeyClearZeroizesKey := by
  refine ⟨fun s => ?_, refusesReservedBits .keyClear⟩
  have hexec := exec_finished (i := .keyClear) (s := s) firstError_nil
  refine ⟨fun hmode => ?_, fun hmode => ?_⟩
  · rwa [effectOf, if_pos hmode] at hexec
  · rwa [effectOf, if_neg hmode] at hexec

/-! ### The message commands -/

/-- Settles O45, by the check of the key. -/
theorem hmacInitStartsMessage : Obligations.HmacInitStartsMessage := by
  refine ⟨fun s => ⟨fun hmode => ?_, fun hmode => ?_⟩, refusesReservedBits .hmacInit⟩
  · exact exec_finished (i := .hmacInit) (firstError_cons_of_passes ((checkKey_passes s.toBlock).mpr hmode) [])
  · exact exec_failed (i := .hmacInit) (firstError_cons_of_fails ((checkKey_fails s.toBlock).mpr hmode) [])

theorem hmacUpdate_absorbsInto : AbsorbsInto .hmacUpdate .hmac := fun s n hn hmode hlen =>
  exec_finished (i := .hmacUpdate n) ((message_checks_pass n s.toBlock .hmac).mpr ⟨hn, hmode, hlen⟩)

/-- Settles O46, by the first check that fails; at most 64 bytes take at most one compression. -/
theorem hmacUpdateAbsorbs : Obligations.HmacUpdateAbsorbs := by
  refine ⟨fun s n => ⟨fun hn hmode hblk hlen => ?_, fun hn => ?_, fun hn hmode => ?_, fun hn hmode hlen => ?_⟩,
    refusesReservedBits .hmacUpdate⟩
  · have honce : absorb s.ctx (s.inBytes n) = absorbedOnce s.ctx (s.inbuf.toList.take n.toNat) :=
      absorb_eq_absorbedOnce hblk ((s.inBytes_length_le n).trans hn)
    rw [← honce]
    exact hmacUpdate_absorbsInto s n hn hmode hlen
  · exact exec_failed (i := .hmacUpdate n) (message_checks_badLen s.toBlock .hmac hn)
  · exact exec_failed (i := .hmacUpdate n) (message_checks_badState hn hmode)
  · exact exec_failed (i := .hmacUpdate n) (message_checks_lengthOverflow hn hmode hlen)

/-- Settles O47, by the check of the context's mode. -/
theorem hmacFinalOutputsTag : Obligations.HmacFinalOutputsTag := by
  refine ⟨fun s => ⟨fun hmode => ⟨_, holdsThenZeros_padTo (by simp), ?_⟩, fun hmode => ?_⟩,
    refusesReservedBits .hmacFinal⟩
  · exact exec_finished (i := .hmacFinal) (firstError_cons_of_passes ((checkCtx_passes s.toBlock .hmac).mpr hmode) [])
  · exact exec_failed (i := .hmacFinal) (firstError_cons_of_fails ((checkCtx_fails s.toBlock .hmac).mpr hmode) [])

/-- Settles O48, by the first check that fails: of LEN, then of the key. -/
theorem hmacOneshotOutputsTag : Obligations.HmacOneshotOutputsTag := by
  refine ⟨fun s n => ⟨fun hn hmode => ⟨_, holdsThenZeros_padTo (by simp), ?_⟩, fun hn => ?_, fun hn hmode => ?_⟩,
    refusesReservedBits .hmacOneshot⟩
  · exact exec_finished (i := .hmacOneshot n) ((firstError_cons_of_passes ((checkLen_passes n).mpr hn) _).trans
      (firstError_cons_of_passes ((checkKey_passes s.toBlock).mpr hmode) []))
  · exact exec_failed (i := .hmacOneshot n) (firstError_cons_of_fails ((checkLen_fails n).mpr hn) _)
  · exact exec_failed (i := .hmacOneshot n) ((firstError_cons_of_passes ((checkLen_passes n).mpr hn) _).trans
      (firstError_cons_of_fails ((checkKey_fails s.toBlock).mpr hmode) []))

/-! ### Sequences -/

/-- HMAC_KEY_END makes a loaded key ready (41_hmac.md R149). -/
theorem exec_hmacKeyEnd_loadingKey {s : State} {k : List Byte} (hkey : s.key = loadingKey k) :
    ∃ t, exec .hmacKeyEnd s = .next t ∧ t.err = false ∧ t.key = readyKey k := by
  obtain ⟨hend, -⟩ := hmacKeyEndPrecomputesKeyState
  obtain ⟨hready, -⟩ := hend s
  refine ⟨_, hready (by rw [hkey]; rfl), rfl, ?_⟩
  rw [readyKey, ← kfinal_accumulated]
  simp only [finished, hkey, loadingKey]
  rfl

/-- The tag from the key states of a loaded key is its `hmac`. -/
theorem hmacK_readyKey {key : Key} {k : List Byte} (m : List Byte) (h : key = readyKey k) :
    hmacK key.iks key.oks m = hmac k m := by
  rw [h]
  rfl

/-- BEGIN, one absorb per piece and END load the whole key. -/
theorem keySequence_loads {s : State} {ks : List KeyPiece} (hmode : s.ctx.mode ≠ .hmac)
    (hks : ∀ p ∈ ks, p.count.toNat ≤ 64) (hlen : (keyOf ks).length ≤ 2 ^ 61 - 1) :
    ∃ t, andThen (andThen (exec .hmacKeyBegin s) (feedKey ks)) (exec .hmacKeyEnd) = .next t ∧
      t.err = false ∧ t.key = readyKey (keyOf ks) := by
  obtain ⟨hbegin, -⟩ := hmacKeyBeginStartsEmptyKey
  obtain ⟨hempty, -⟩ := hbegin s
  obtain ⟨u, hfeed, hu⟩ := feedKey_loads ks (s := finished s { s.toBlock with key := loadingKey [] }) hks rfl
    ((Nat.zero_add _).trans_le hlen)
  obtain ⟨t, hend, herr, ht⟩ := exec_hmacKeyEnd_loadingKey hu
  refine ⟨t, ?_, herr, ht⟩
  rw [hempty hmode]
  exact (congrArg (andThen · (exec .hmacKeyEnd)) hfeed).trans hend

/-- INIT, one UPDATE per piece and FINAL under a loaded key output the tag of the whole message. -/
theorem messageSequence_outputs_hmac {s : State} {k : List Byte} {ms : List Piece} (hkey : s.key = readyKey k)
    (hms : ∀ p ∈ ms, p.2.toNat ≤ 64) (hlen : (message ms).length ≤ 2 ^ 61 - 65) :
    ∃ t, andThen (andThen (exec .hmacInit s) (feed .hmacUpdate ms)) (exec .hmacFinal) = .next t ∧
      t.err = false ∧ t.out.toList.take 20 = hmac k (message ms) ∧ t.key = s.key := by
  obtain ⟨hinit, -⟩ := hmacInitStartsMessage
  obtain ⟨hstart, -⟩ := hinit s
  obtain ⟨u, hfeed, hctxu, hkeyu⟩ := feed_absorbs hmacUpdate_absorbsInto ms
    (finished s { s.toBlock with ctx := hctx s.key.iks }) hms rfl (by simp only [finished, hctx]; omega)
  obtain ⟨hfinal, -⟩ := hmacFinalOutputsTag
  obtain ⟨htag, -⟩ := hfinal u
  obtain ⟨o, ho, hexec⟩ := htag (by rw [hctxu, absorb_mode]; rfl)
  have hseq : andThen (andThen (exec .hmacInit s) (feed .hmacUpdate ms)) (exec .hmacFinal) = exec .hmacFinal u := by
    rw [hstart (by rw [hkey]; rfl)]
    exact congrArg (andThen · (exec .hmacFinal)) hfeed
  refine ⟨_, hseq.trans hexec, rfl, (ho.take_eq (finalize_length _)).trans ?_, hkeyu⟩
  rw [hctxu, hkeyu, ← hmacK_readyKey (message ms) hkey]
  rfl

/-- Settles O51, by the two sequences and the one-shot command. -/
theorem hmacSequencesComputeHmac : Obligations.HmacSequencesComputeHmac := by
  refine ⟨fun s ks => keySequence_loads, fun s k ms => messageSequence_outputs_hmac, fun s k n hkey hn => ?_⟩
  obtain ⟨honeshot, -⟩ := hmacOneshotOutputsTag
  obtain ⟨htag, -⟩ := honeshot s n
  obtain ⟨o, ho, hexec⟩ := htag hn (by rw [hkey]; rfl)
  exact ⟨_, hexec, (ho.take_eq (hmacK_length _ _ _)).trans (hmacK_readyKey _ hkey), rfl⟩

end Sys2Proof.Claims
end

section
/-! PBKDF2 (42_pbkdf2.md R160-R167): a block is the XOR of the `U_j`, a derived key has its length and begins with every
shorter one, and the command's outcome is the first check it fails. -/

namespace Sys2Proof.Machine

/-! ### The derived key -/

/-- The blocks of 20 bytes cover the derived key (42_pbkdf2.md R162). -/
theorem le_length_pbkdf2_blocks (iks oks : Chain) (salt : List Byte) (c dk : Nat) :
    dk ≤ ((List.range (pbkdf2Blocks dk)).flatMap fun i => pbkdf2F iks oks salt c (i + 1)).length := by
  have hlength : ((List.range (pbkdf2Blocks dk)).flatMap fun i => pbkdf2F iks oks salt c (i + 1)).length =
      pbkdf2Blocks dk * 20 := by simp
  rw [hlength, pbkdf2Blocks, Config.pbkdf2Block]
  omega

@[simp] theorem pbkdf2_length (iks oks : Chain) (salt : List Byte) (c dk : Nat) :
    (pbkdf2 iks oks salt c dk).length = dk :=
  List.length_take_of_le (le_length_pbkdf2_blocks iks oks salt c dk)

/-- A derived key begins with every shorter one: its blocks are the shorter one's and more (42_pbkdf2.md R166). -/
theorem take_pbkdf2 (iks oks : Chain) (salt : List Byte) (c : Nat) {dk1 dk2 : Nat} (h : dk1 ≤ dk2) :
    (pbkdf2 iks oks salt c dk2).take dk1 = pbkdf2 iks oks salt c dk1 := by
  have hblocks : pbkdf2Blocks dk1 ≤ pbkdf2Blocks dk2 := Nat.div_le_div_right (Nat.add_le_add_right h _)
  obtain ⟨more, hmore⟩ := Nat.exists_eq_add_of_le hblocks
  rw [pbkdf2, List.take_take, Nat.min_eq_left h, hmore, List.range_add, List.flatMap_append,
    List.take_append_of_le_length (le_length_pbkdf2_blocks iks oks salt c dk1), pbkdf2]

/-- The `dk` bytes that PBKDF2 derives in the block's state (42_pbkdf2.md R163). -/
def Block.derivedKey (b : Block) (n : Count) (dk : Nat) : List Byte :=
  pbkdf2 b.key.iks b.key.oks (b.inBytes n) b.iter.toNat dk

/-! ### The first check that fails -/

theorem checkIter_fails (b : Block) : (checkIter b).1 = true ↔ b.iter = 0 := beq_iff_eq

/-- The errors of PBKDF2 in their order (42_pbkdf2.md R163). -/
theorem firstError_pbkdf2 (n d : Count) (b : Block) :
    firstError (checksOf (.pbkdf2 n d) b) =
      if 64 < n.toNat then some .badLen
      else if d.toNat = 0 ∨ 80 < d.toNat then some .badDklen
      else if b.iter = 0 then some .badIter
      else if b.key.kmode ≠ .ready then some .noKey
      else if b.ctx.mode ≠ .idle then some .badState
      else none := by
  simp only [checksOf, firstError_cons, checkLen_fails, checkDklen_fails, checkIter_fails, checkKey_fails,
    checkCtx_fails, firstError_nil]
  rfl

/-! ### The output buffer -/

/-- A command whose effect leaves `out` leaves it on every outcome, but for the zeroing by HMAC_KEY_ABSORB_OUT
(60_exceptions.md R205). -/
theorem exec_out {i : Instr} {s t : State} (hexec : exec i s = .next t) (heffect : (effectOf i s.toBlock).out = s.out) :
    t.out = if i.opcode = .hmacKeyAbsorbOut then zeroBuf Config.outBytes else s.out := by
  rw [exec_eq_runCommand] at hexec
  rcases runCommand_cases i.opcode (checksOf i s.toBlock) (effectOf i) s with ⟨e, -, hrun⟩ | ⟨-, hrun⟩
  · cases hrun.symm.trans hexec
    rw [Block.completeErr_out, Block.zeroKeySource_out]
  · cases hrun.symm.trans hexec
    rw [Block.completeOk_out, Block.zeroKeySource_out, heffect]

end Sys2Proof.Machine

namespace Sys2Proof.Claims

open Sys2Proof Sys2Proof.Machine

/-! ### A block as the XOR of the `U_j` -/

@[simp] theorem pbkdf2U_length (iks oks : Chain) (salt : List Byte) (i j : Nat) :
    (pbkdf2U iks oks salt i j).length = 20 := by
  cases j <;> exact hmacK_length _ _ _

theorem replicate_zero_xorBytes (s : List Byte) : xorBytes (List.replicate s.length 0) s = s := by
  induction s with
  | nil => rfl
  | cons x s ih => exact congrArg₂ List.cons BitVec.zero_xor ih

theorem pbkdf2T_one (iks oks : Chain) (salt : List Byte) (i : Nat) :
    pbkdf2T iks oks salt 1 i = pbkdf2U iks oks salt i 0 :=
  replicate_zero_xorBytes (pbkdf2U iks oks salt i 0)

theorem pbkdf2T_succ (iks oks : Chain) (salt : List Byte) (c i : Nat) :
    pbkdf2T iks oks salt (c + 1) i = xorBytes (pbkdf2T iks oks salt c i) (pbkdf2U iks oks salt i c) := by
  simp only [pbkdf2T, List.range_succ, List.foldl_append, List.foldl_cons, List.foldl_nil]

/-- From `U_{j+1}` and the XOR of `U_1` to `U_{j+1}`, `k` more applications reach the XOR of `k` more. -/
theorem pbkdf2Loop_eq_pbkdf2T (iks oks : Chain) (salt : List Byte) (i k j : Nat) :
    pbkdf2Loop iks oks k (pbkdf2U iks oks salt i j) (pbkdf2T iks oks salt (j + 1) i) =
      pbkdf2T iks oks salt (j + 1 + k) i := by
  induction k generalizing j with
  | zero => rfl
  | succ k ih =>
    calc pbkdf2Loop iks oks (k + 1) (pbkdf2U iks oks salt i j) (pbkdf2T iks oks salt (j + 1) i)
        = pbkdf2Loop iks oks k (pbkdf2U iks oks salt i (j + 1)) (pbkdf2T iks oks salt (j + 1 + 1) i) := by
          rw [pbkdf2T_succ iks oks salt (j + 1)]
          rfl
      _ = pbkdf2T iks oks salt (j + 1 + (k + 1)) i := by rw [ih, Nat.add_assoc (j + 1), Nat.add_comm 1]

/-- A block is the XOR of `U_1` to `U_c` (42_pbkdf2.md R161). -/
theorem pbkdf2F_eq_pbkdf2T (iks oks : Chain) (salt : List Byte) {c : Nat} (hc : c ≠ 0) (i : Nat) :
    pbkdf2F iks oks salt c i = pbkdf2T iks oks salt c i := by
  have hloop := pbkdf2Loop_eq_pbkdf2T iks oks salt i (c - 1) 0
  rw [pbkdf2T_one, Nat.zero_add, Nat.add_sub_of_le (Nat.one_le_iff_ne_zero.mpr hc)] at hloop
  exact hloop

theorem pbkdf2_eq_take_pbkdf2T (iks oks : Chain) (salt : List Byte) {c : Nat} (hc : c ≠ 0) (dk : Nat) :
    pbkdf2 iks oks salt c dk =
      ((List.range ((dk + 19) / 20)).flatMap fun i => pbkdf2T iks oks salt c (i + 1)).take dk := by
  simp only [pbkdf2, pbkdf2F_eq_pbkdf2T iks oks salt hc]
  rfl

/-! ### The command -/

/-- PBKDF2 whose checks all pass puts the derived key into `out`. -/
theorem exec_pbkdf2 {n d : Count} {s : State} (hn : n.toNat ≤ 64) (hd : 1 ≤ d.toNat) (hd' : d.toNat ≤ 80)
    (hiter : s.iter ≠ 0) (hkey : s.key.kmode = .ready) (hmode : s.ctx.mode = .idle) :
    exec (.pbkdf2 n d) s = .next (finished s (s.setOut (s.derivedKey n d.toNat))) := by
  refine exec_finished (i := .pbkdf2 n d) ?_
  rw [firstError_pbkdf2, if_neg (Nat.not_lt.mpr hn), if_neg (by omega), if_neg hiter, if_neg (not_not.mpr hkey),
    if_neg (not_not.mpr hmode)]

theorem holdsThenZeros_derivedKey (b : Block) (n : Count) {dk : Nat} (hdk : dk ≤ 80) :
    HoldsThenZeros (padTo 80 (b.derivedKey n dk)) (b.derivedKey n dk) :=
  holdsThenZeros_padTo (by rwa [Block.derivedKey, pbkdf2_length])

/-- A derived key in `out` begins with every derived key no longer than it. -/
theorem take_padTo_derivedKey (b : Block) (n : Count) {k dk : Nat} (hk : k ≤ dk) (hdk : dk ≤ 80) :
    (padTo 80 (b.derivedKey n dk)).toList.take k = b.derivedKey n k := by
  rw [holdsThenZeros_derivedKey b n hdk, Block.derivedKey, List.take_append_of_le_length (by rwa [pbkdf2_length]),
    take_pbkdf2 _ _ _ _ hk, Block.derivedKey]

/-- Settles O52: the model's loop computes the XOR of the `U_j`, and an error is that of the first check that fails. -/
theorem pbkdf2OutputsDerivedKey : Obligations.Pbkdf2OutputsDerivedKey := by
  refine ⟨fun s n d => ⟨fun hn hd hd' hiter hkey hmode => ?_, fun hn => ?_, fun hn hd => ?_,
    fun hn hd hd' hiter => ?_, fun hn hd hd' hiter hkey => ?_, fun hn hd hd' hiter hkey hmode => ?_⟩,
    refusesReservedBits .pbkdf2⟩
  · rw [← pbkdf2_eq_take_pbkdf2T _ _ _ (BitVec.toNat_ne.mp hiter)]
    exact ⟨_, holdsThenZeros_derivedKey s.toBlock n hd', exec_pbkdf2 hn hd hd' hiter hkey hmode⟩
  · refine exec_failed (i := .pbkdf2 n d) (e := .badLen) ?_
    rw [firstError_pbkdf2, if_pos hn]
  · refine exec_failed (i := .pbkdf2 n d) (e := .badDklen) ?_
    rw [firstError_pbkdf2, if_neg (Nat.not_lt.mpr hn), if_pos hd]
  · refine exec_failed (i := .pbkdf2 n d) (e := .badIter) ?_
    rw [firstError_pbkdf2, if_neg (Nat.not_lt.mpr hn), if_neg (by omega), if_pos hiter]
  · refine exec_failed (i := .pbkdf2 n d) (e := .noKey) ?_
    rw [firstError_pbkdf2, if_neg (Nat.not_lt.mpr hn), if_neg (by omega), if_neg hiter, if_pos hkey]
  · refine exec_failed (i := .pbkdf2 n d) (e := .badState) ?_
    rw [firstError_pbkdf2, if_neg (Nat.not_lt.mpr hn), if_neg (by omega), if_neg hiter, if_neg (not_not.mpr hkey),
      if_pos hmode]

/-- Settles O53: both outputs begin with the shorter derived key. -/
theorem pbkdf2ShorterIsPrefix : Obligations.Pbkdf2ShorterIsPrefix := by
  intro s n d1 d2 hn hd1 hle hd2 hiter hkey hmode
  have hd1' : d1.toNat ≤ 80 := hle.trans hd2
  exact ⟨_, _, exec_pbkdf2 hn hd1 hd1' hiter hkey hmode, exec_pbkdf2 hn (hd1.trans hle) hd2 hiter hkey hmode,
    (take_padTo_derivedKey s.toBlock n le_rfl hd1').trans (take_padTo_derivedKey s.toBlock n hle hd2).symm⟩

/-! ### The derived key as the HMAC key -/

/-- BEGIN, an absorb of `out[0..n)` and END make those bytes the key and zero `out` (41_hmac.md R146, R148, R149). -/
theorem outSequence_loads {s : State} {n : Count} (hmode : s.ctx.mode ≠ .hmac) (hn : n.toNat ≤ 64) :
    ∃ t, andThen (andThen (exec .hmacKeyBegin s) (exec (.hmacKeyAbsorbOut n))) (exec .hmacKeyEnd) = .next t ∧
      t.key = readyKey (s.outBytes n) ∧ t.out = zeroBuf 80 := by
  obtain ⟨hbegin, -⟩ := hmacKeyBeginStartsEmptyKey
  obtain ⟨hempty, -⟩ := hbegin s
  obtain ⟨u, habsorb, hu⟩ := (hmacKeyAbsorbOut_appendsToKey n).loads
    (s := finished s { s.toBlock with key := loadingKey [] }) hn rfl ((Nat.zero_add _).trans_le (by omega))
  obtain ⟨t, hend, -, ht⟩ := exec_hmacKeyEnd_loadingKey hu
  refine ⟨t, ?_, ht, (exec_out hend rfl).trans (exec_out habsorb rfl)⟩
  rw [hempty hmode]
  exact (congrArg (andThen · (exec .hmacKeyEnd)) habsorb).trans hend

/-- Settles O54: PBKDF2 leaves the derived key in `out` and the context idle, so the key sequence loads it. -/
theorem pbkdf2ChainsIntoHmac : Obligations.Pbkdf2ChainsIntoHmac := by
  intro s n d hn hd hd' hiter hkey hmode
  have hd80 : d.toNat ≤ 80 := hd'.trans (by decide)
  obtain ⟨t, hseq, hready, hout⟩ := outSequence_loads (s := finished s (s.setOut (s.derivedKey n d.toNat))) (n := d)
    (hmode.trans_ne (by decide)) hd'
  refine ⟨t, ?_, ?_, ?_⟩
  · rw [exec_pbkdf2 hn hd hd80 hiter hkey hmode]
    exact hseq
  · exact hready.trans (congrArg readyKey (take_padTo_derivedKey s.toBlock n le_rfl hd80))
  · exact (congrArg Vector.toList hout).trans (zeroBuf_toList 80)

end Sys2Proof.Claims
end

section
/-! The CRC function (43_crc16.md R170-R183): a byte's 8 iterations take its bits one by one, the fold is linear over
XOR of running value and message together, and a value stored little-endian passes through the register as one word. -/

namespace Sys2Proof.Machine

/-! ### Bit by bit -/

/-- One iteration takes the low bit of whatever was XORed into the register, and shifts the rest of it down. -/
theorem crcBit_xor_eq_crcSerialBit (c y : Word16) :
    crcBit (c ^^^ y) = Claims.crcSerialBit c (y.getLsbD 0) ^^^ y >>> 1 := by
  unfold crcBit Claims.crcSerialBit
  rw [BitVec.getLsbD_xor, BitVec.ushiftRight_xor_distrib]
  split
  · rw [BitVec.xor_assoc, BitVec.xor_comm (y >>> 1), ← BitVec.xor_assoc]
  · rfl

/-- After `k` iterations the low `k` bits of what was XORed in are taken, and the others are `k` places lower. -/
theorem crcBit_iterate_xor_eq_serial (c y : Word16) (k : Nat) :
    crcBit^[k] (c ^^^ y) =
      (List.range k).foldl (fun c i => Claims.crcSerialBit c (y.getLsbD i)) c ^^^ y >>> k := by
  induction k with
  | zero => rfl
  | succ k ih =>
    rw [Function.iterate_succ_apply', ih, crcBit_xor_eq_crcSerialBit, BitVec.getLsbD_ushiftRight, Nat.add_zero,
      ← BitVec.shiftRight_add, List.range_succ, List.foldl_append, List.foldl_cons, List.foldl_nil]

/-- The 8 iterations of a byte take its bits, least significant first (43_crc16.md R170). -/
theorem crcByte_eq_serial (c : Word16) (b : Byte) :
    crcByte c b = (List.range 8).foldl (fun c i => Claims.crcSerialBit c (b.getLsbD i)) c := by
  have hbits (i : Nat) : (b.setWidth 16).getLsbD i = b.getLsbD i := by
    rw [BitVec.getLsbD_setWidth, Bool.and_eq_right_iff_imp, decide_eq_true_iff]
    exact fun h => (BitVec.lt_of_getLsbD h).trans (by decide)
  have hnone : b.setWidth 16 >>> 8 = 0#16 := by bv_omega
  rw [crcByte, crcBit_iterate_xor_eq_serial, hnone, BitVec.xor_zero]
  simp only [hbits]

/-- The fold over a message is its bit-serial CRC. -/
theorem crcFold_eq_crcSerial (c : Word16) (m : List Byte) : crcFold c m = Claims.crcSerial c m :=
  congrArg (fun step => m.foldl step c) (funext₂ crcByte_eq_serial)

/-! ### Linearity -/

theorem crcByte_xor (c d : Word16) (x y : Byte) : crcByte (c ^^^ d) (x ^^^ y) = crcByte c x ^^^ crcByte d y := by
  have hswap : c ^^^ d ^^^ (x ^^^ y).setWidth 16 = c ^^^ x.setWidth 16 ^^^ (d ^^^ y.setWidth 16) := by
    rw [BitVec.setWidth_xor]
    ac_rfl
  rw [crcByte, hswap]
  exact crcBit_iterate_xor 8 _ _

/-- The fold is linear over XOR of the running values and the messages together (43_crc16.md R178). -/
theorem crcFold_xorBytes (c d : Word16) {a b : List Byte} (h : a.length = b.length) :
    crcFold (c ^^^ d) (xorBytes a b) = crcFold c a ^^^ crcFold d b := by
  induction a generalizing b c d with
  | nil =>
    obtain rfl := List.length_eq_zero_iff.mp h.symm
    rfl
  | cons x a ih =>
    cases b with
    | nil => cases h
    | cons y b =>
      calc crcFold (c ^^^ d) (xorBytes (x :: a) (y :: b))
          = crcFold (crcByte c x ^^^ crcByte d y) (xorBytes a b) := by rw [← crcByte_xor]; rfl
        _ = crcFold c (x :: a) ^^^ crcFold d (y :: b) := ih _ _ (Nat.succ.inj h)

/-! ### A stored value -/

/-- While no low bit is set, iterations only shift. -/
theorem crcBit_iterate_eq_ushiftRight {x : Word16} {k : Nat} (h : ∀ i < k, x.getLsbD i = false) :
    crcBit^[k] x = x >>> k := by
  induction k with
  | zero => rfl
  | succ k ih =>
    have hlow : (x >>> k).getLsbD 0 = false := by
      rw [BitVec.getLsbD_ushiftRight]
      exact h k k.lt_succ_self
    rw [Function.iterate_succ_apply', ih fun i hi => h i (hi.trans k.lt_succ_self), crcBit, hlow,
      if_neg Bool.false_ne_true, BitVec.shiftRight_add]

/-- A 16-bit value is the XOR of its bytes at their places. -/
theorem lowByte_xor_highByte (v : Word16) :
    (v.extractLsb' 0 8).setWidth 16 ^^^ (v.extractLsb' 8 8).setWidth 16 <<< 8 = v := by
  apply BitVec.eq_of_getLsbD_eq
  intro i hi
  simp only [BitVec.getLsbD_xor, BitVec.getLsbD_shiftLeft, BitVec.getLsbD_setWidth, BitVec.getLsbD_extractLsb']
  interval_cases i <;> simp

/-- The two bytes of a value, least significant first, go through the register as its 16 bits. -/
theorem crcFold_le16 (c v : Word16) : crcFold c (le16 v) = crcBit^[16] (c ^^^ v) := by
  have hhigh (x : Byte) : crcBit^[8] (x.setWidth 16 <<< 8) = x.setWidth 16 := by
    rw [crcBit_iterate_eq_ushiftRight]
    · bv_omega
    · intro i hi
      simp [BitVec.getLsbD_shiftLeft, hi]
  calc crcFold c (le16 v)
      = crcBit^[8] (crcBit^[8] (c ^^^ (v.extractLsb' 0 8).setWidth 16) ^^^ (v.extractLsb' 8 8).setWidth 16) := rfl
    _ = crcBit^[8] (crcBit^[8] (c ^^^ v)) := by
      rw [← hhigh (v.extractLsb' 8 8), ← crcBit_iterate_xor, BitVec.xor_assoc, lowByte_xor_highByte]
    _ = crcBit^[16] (c ^^^ v) := (Function.iterate_add_apply crcBit 8 8 _).symm

end Sys2Proof.Machine

namespace Sys2Proof.Claims

open Sys2Proof Sys2Proof.Machine

/-- Settles O57: with the zeros' CRC the three seeds XOR to one, and the zeros leave the message. -/
theorem crcAffineLaw : Obligations.CrcAffineLaw := by
  refine ⟨fun a b h => ?_, rfl, rfl⟩
  have hlen : (xorBytes a b).length = a.length := by rw [xorBytes_length, ← h, Nat.min_self]
  calc crc16 a ^^^ crc16 b ^^^ crc16 (List.replicate a.length 0)
      = crc16 (List.replicate a.length 0) ^^^ crcFold (Config.crcSeed ^^^ Config.crcSeed) (xorBytes a b) := by
        rw [crcFold_xorBytes _ _ h, BitVec.xor_comm]
        rfl
    _ = crcFold Config.crcSeed (xorBytes (List.replicate a.length 0) (xorBytes a b)) :=
        (crcFold_xorBytes Config.crcSeed 0 (by rw [List.length_replicate, hlen])).symm
    _ = crc16 (xorBytes a b) := by
        rw [← hlen, replicate_zero_xorBytes]
        rfl

/-- Settles O58: the stored value cancels the running one but for the complement, whatever the running value is. -/
theorem crcResidueIsConstant : Obligations.CrcResidueIsConstant := by
  intro p
  have hcancel : crc16 p ^^^ (crc16 p ^^^ 0xFFFF) = 0xFFFF := by
    rw [← BitVec.xor_assoc, BitVec.xor_self, BitVec.zero_xor]
  calc crc16 (p ++ le16 (crc16 p ^^^ 0xFFFF))
      = crcFold (crc16 p) (le16 (crc16 p ^^^ 0xFFFF)) := crcFold_append _ _ _
    _ = crcBit^[16] 0xFFFF := by rw [crcFold_le16, hcancel]
    _ = 0xF0B8 := by decide +kernel

end Sys2Proof.Claims
end

section
/-! The CRC commands (43_crc16.md R173-R177): the check of LEN is their only one, and a message runs through the
register over any number of updates. -/

namespace Sys2Proof.Claims

open Sys2Proof Sys2Proof.Machine

theorem len_check_badLen {n : Count} (hn : 64 < n.toNat) : firstError [checkLen n] = some .badLen :=
  firstError_cons_of_fails ((checkLen_fails n).mpr hn) []

theorem len_check_passes {n : Count} (hn : n.toNat ≤ 64) : firstError [checkLen n] = none :=
  firstError_cons_of_passes ((checkLen_passes n).mpr hn) []

theorem exec_crcInit (s : State) : exec .crcInit s = .next (finished s { s.toBlock with crc := Config.crcSeed }) :=
  exec_finished (i := .crcInit) firstError_nil

theorem exec_crcUpdate {n : Count} (s : State) (hn : n.toNat ≤ 64) :
    exec (.crcUpdate n) s = .next (finished s { s.toBlock with crc := crcFold s.crc (s.inBytes n) }) :=
  exec_finished (i := .crcUpdate n) (len_check_passes hn)

theorem exec_crcOneshot {n : Count} (s : State) (hn : n.toNat ≤ 64) :
    exec (.crcOneshot n) s = .next (finished s { s.toBlock with crc := crc16 (s.inBytes n) }) :=
  exec_finished (i := .crcOneshot n) (len_check_passes hn)

/-- One update per piece runs the whole message through the register (43_crc16.md R177). -/
theorem feed_crcUpdate (ps : List Piece) (s : State) (hps : ∀ p ∈ ps, p.2.toNat ≤ 64) :
    ∃ t, feed .crcUpdate ps s = .next t ∧ t.crc = crcFold s.crc (message ps) := by
  induction ps generalizing s with
  | nil => exact ⟨s, rfl, rfl⟩
  | cons p ps ih =>
    obtain ⟨hp, hrest⟩ := List.forall_mem_cons.mp hps
    obtain ⟨t, hfeed, hcrc⟩ := ih
      (finished { s with inbuf := p.1 } { s.toBlock with inbuf := p.1, crc := crcFold s.crc p.bytes }) hrest
    refine ⟨t, ?_, ?_⟩
    · rw [feed, exec_crcUpdate _ hp]
      exact hfeed
    · rw [hcrc, message_cons, crcFold_append]
      rfl

/-- Settles O55: LEN alone is checked, and the fold that the effect computes is the bit-serial CRC. -/
theorem crcCommandsComputeCrc : Obligations.CrcCommandsComputeCrc := by
  refine ⟨exec_crcInit, fun s n => ⟨fun hn => ?_, fun hn => ?_⟩, fun s n => ⟨fun hn => ?_, fun hn => ?_⟩,
    refusesReservedBits .crcInit, refusesReservedBits .crcUpdate, refusesReservedBits .crcOneshot⟩
  · rw [← crcFold_eq_crcSerial]
    exact exec_crcUpdate s hn
  · exact exec_failed (i := .crcUpdate n) (len_check_badLen hn)
  · rw [← crcFold_eq_crcSerial]
    exact exec_crcOneshot s hn
  · exact exec_failed (i := .crcOneshot n) (len_check_badLen hn)

/-- Settles O56: INIT leaves the seed and ONESHOT the first piece's CRC, and the updates run the rest through it. -/
theorem crcPiecesGiveWholeCrc : Obligations.CrcPiecesGiveWholeCrc := by
  refine ⟨fun a b => crcFold_append _ a b, fun s ps hps => ?_, fun s p ps hp hps => ?_⟩
  · rw [exec_crcInit]
    exact feed_crcUpdate ps _ hps
  · have hwhole : crc16 (message (p :: ps)) = crcFold (crc16 p.bytes) (message ps) := crcFold_append _ _ _
    rw [exec_crcOneshot _ hp, hwhole]
    exact feed_crcUpdate ps _ hps

end Sys2Proof.Claims
end

section
/-! The system operations (44_system.md R190, R192): what ZEROIZE leaves names no field that may hold a secret, so nothing
that follows it can tell two secrets apart; the soft reset is the reset input by another way. -/

namespace Sys2Proof.Claims

open Sys2Proof Sys2Proof.Machine

/-- ZEROIZE has no check. -/
theorem exec_zeroize (s : State) : exec .zeroize s = .next (finished s s.toBlock.zeroizeSecrets) :=
  exec_finished (i := .zeroize) firstError_nil

/-- A completed ZEROIZE leaves the reset block, but for the fields of R190 that are not secret, `done`, and the two that
no completion changes. -/
theorem finished_zeroizeSecrets (s : State) :
    finished s s.toBlock.zeroizeSecrets =
      { toBlock := { Block.reset with
          crc := s.crc, iter := s.iter, irqEn := s.irqEn, done := true, wdrop := s.wdrop, lastop := s.lastop }
        agenda := s.agenda, replies := s.replies } := rfl

/-- Settles O60: the right side of `finished_zeroizeSecrets` is the same for both states, so both runs start from one. -/
theorem zeroizeForgetsSecrets : Obligations.ZeroizeForgetsSecrets := by
  intro s u t k hcrc hiter hirqEn hwdrop hlastop hagenda hreplies hexec
  have hsame : finished u u.toBlock.zeroizeSecrets = finished s s.toBlock.zeroizeSecrets := by
    rw [finished_zeroizeSecrets s, finished_zeroizeSecrets u, hcrc, hiter, hirqEn, hwdrop, hlastop, hagenda, hreplies]
  refine ⟨t, ?_, rfl⟩
  calc exec .zeroize u
      = .next (finished s s.toBlock.zeroizeSecrets) := by rw [exec_zeroize, hsame]
    _ = exec .zeroize s := (exec_zeroize s).symm
    _ = .next t := hexec

/-- Settles O25: both steps leave `Block.reset`. -/
theorem softResetEqualsResetInput : Obligations.SoftResetEqualsResetInput := by
  intro s v rest hv
  obtain ⟨t, hsoft, -, ht⟩ := step_reset_toBlock s rest (.access (.write 0x08 4 v)) (.inr (.inr ⟨v, hv, rfl⟩))
  obtain ⟨u, hinput, -, hu⟩ := step_reset_toBlock s rest .reset (.inl rfl)
  refine ⟨t, u, hsoft, hinput, ht.trans hu.symm, ?_⟩
  rw [ht]
  exact ⟨rfl, rfl, rfl⟩

/-- Settles O59: ZEROIZE has no check, and its opcode zeroes nothing when the word is refused. -/
theorem zeroizeErasesSecrets : Obligations.ZeroizeErasesSecrets := ⟨exec_zeroize, refusesReservedBits .zeroize⟩

end Sys2Proof.Claims
end

section
/-! Completion as 60_exceptions.md says it: R204's `validate` of a raw word is the first error among the decoder's checks
and the command's own, a failure leaves what R205 lets it, and the three facts of log 16 are kept by every step. -/

namespace Sys2Proof.Machine

/-! ### The code that a list of checks reports -/

/-- The code that a completion leaves in `errcode`: that of its error, 0 where there is none (60_exceptions.md R203). -/
def errorCode : Option CmdError → Nat
  | none => 0
  | some e => e.code.toNat

@[simp] theorem errorCode_none : errorCode none = 0 := rfl

theorem errorCode_some_ne_zero (e : CmdError) : errorCode (some e) ≠ 0 := by cases e <;> decide

/-- The first check of a list is reported where it fails; the rest is looked at only where it passes (R204). -/
theorem errorCode_firstError_cons {c : Check} {p : Prop} [Decidable p] (h : c.1 = true ↔ p) (rest : List Check) :
    errorCode (firstError (c :: rest)) = if p then errorCode (some c.2) else errorCode (firstError rest) := by
  rw [firstError_cons, apply_ite errorCode]
  exact if_congr h rfl rfl

section
variable (b : Block) (rest : List Check)

@[simp] theorem errorCode_checkLen (n : Count) :
    errorCode (firstError (checkLen n :: rest)) = if 64 < n.toNat then 3 else errorCode (firstError rest) :=
  errorCode_firstError_cons (checkLen_fails n) rest

@[simp] theorem errorCode_checkDklen (d : Count) :
    errorCode (firstError (checkDklen d :: rest)) =
      if d.toNat = 0 ∨ 80 < d.toNat then 4 else errorCode (firstError rest) :=
  errorCode_firstError_cons (checkDklen_fails d) rest

@[simp] theorem errorCode_checkIter :
    errorCode (firstError (checkIter b :: rest)) = if b.iter = 0 then 5 else errorCode (firstError rest) :=
  errorCode_firstError_cons (checkIter_fails b) rest

@[simp] theorem errorCode_checkKey :
    errorCode (firstError (checkKey b :: rest)) = if b.key.kmode ≠ .ready then 6 else errorCode (firstError rest) :=
  errorCode_firstError_cons (checkKey_fails b) rest

@[simp] theorem errorCode_checkCtx (m : CtxMode) :
    errorCode (firstError (checkCtx b m :: rest)) = if b.ctx.mode ≠ m then 7 else errorCode (firstError rest) :=
  errorCode_firstError_cons (checkCtx_fails b m) rest

@[simp] theorem errorCode_checkLoading :
    errorCode (firstError (checkLoading b :: rest)) =
      if b.key.kmode ≠ .loading then 7 else errorCode (firstError rest) :=
  errorCode_firstError_cons (checkLoading_fails b) rest

/-- Check 7 of R204 as HMAC_KEY_BEGIN makes it: no HMAC message may be in progress (41_hmac.md R146). -/
@[simp] theorem errorCode_checkNoHmac :
    errorCode (firstError ((b.ctx.mode == .hmac, .badState) :: rest)) =
      if b.ctx.mode = .hmac then 7 else errorCode (firstError rest) :=
  errorCode_firstError_cons beq_iff_eq rest

@[simp] theorem errorCode_checkLength (total : Nat) :
    errorCode (firstError (checkLength total :: rest)) =
      if 2 ^ 61 - 1 < total then 8 else errorCode (firstError rest) :=
  errorCode_firstError_cons (checkLength_fails total) rest

end

/-! ### Steps -/

theorem engineStep_of_decode_ok {s : State} {i : Instr} (h : decode s.pending = .ok i) : engineStep s = exec i s := by
  rw [engineStep, h]

/-- With nothing scheduled an idle block holds its state (60_exceptions.md R217; log 4). -/
theorem step_of_idle_unscheduled {s : State} (ha : s.agenda = []) (hb : s.busy = false) : step s = .next s := by
  simp [step, agentStep, ha, hb]

/-- A scheduled engine step passes with no effect on an idle block (60_exceptions.md R201; log 4). -/
theorem step_of_idle_engine {s : State} {rest : List Event} (ha : s.agenda = .engine :: rest) (hb : s.busy = false) :
    step s = .next { s with agenda := rest } := by
  simp [step, agentStep, ha, hb]

theorem accessLegal_eq_false {off : Offset} {n : Nat} (h : n ≠ 4 ∨ off.toNat % 4 ≠ 0) : accessLegal off n = false := by
  simpa [accessLegal, ← not_and_or] using h

/-! ### The three facts of log 16 -/

/-- `kappend` keeps a long accumulator's partial block fitting its count (41_hmac.md R142). -/
theorem KAcc.PartialBlock.kappend {a : KAcc} (ha : a.PartialBlock) (m : List Byte) : (kappend a m).PartialBlock := by
  cases a with
  | short s =>
    rw [Machine.kappend]
    split
    · trivial
    · exact (absorb_blk_length ctxSha0 _ (by decide)).trans (by simp [ctxSha0])
  | long c =>
    have hblk : c.blk.length = c.len % 64 := ha
    have hlt : c.blk.length < 64 := hblk ▸ Nat.mod_lt _ (by decide)
    exact (absorb_blk_length c m hlt).trans (by rw [hblk, absorb_len, Nat.mod_add_mod])

/-- Only the two key absorbs lengthen the accumulator; the other commands leave it or start an empty one. -/
theorem effectOf_keeps_partialBlock (i : Instr) {b : Block} (h : b.key.kacc.PartialBlock) :
    (effectOf i b).key.kacc.PartialBlock := by
  cases i with
  | hmacKeyAbsorb n | hmacKeyAbsorbOut n => exact h.kappend _
  | hmacKeyBegin | hmacKeyEnd | keyClear | zeroize => trivial
  | _ => exact h

theorem Block.invMore_reset : Block.reset.InvMore := Claims.resetMeetsBlockInvariants.2

/-- A block that is not busy and whose code is none or an error's meets log 16 as far as its accumulator does. -/
theorem Block.InvMore.of_completed {b : Block} (hbusy : b.busy = false) (hcode : b.errcode.toNat ≤ 8)
    (hblock : b.key.kacc.PartialBlock) : b.InvMore :=
  ⟨fun h => absurd h (ne_true_of_eq_false hbusy), hcode, hblock⟩

theorem Block.invMore_completeErr {b : Block} (h : b.key.kacc.PartialBlock) (e : CmdError) :
    (b.completeErr e).InvMore :=
  .of_completed rfl e.code_le h

theorem Block.invMore_completeOk {b : Block} (h : b.key.kacc.PartialBlock) : b.completeOk.InvMore :=
  .of_completed rfl (Nat.zero_le _) h

theorem engineStep_invMore {s t : State} (h : s.key.kacc.PartialBlock) (hstep : engineStep s = .next t) :
    t.toBlock.InvMore := by
  rcases engineStep_cases s with ⟨i, -, hi⟩ | ⟨e, -, he⟩
  · rw [hi] at hstep
    cases hchecks : firstError (checksOf i s.toBlock) with
    | none =>
      rw [exec_ok hchecks] at hstep
      cases hstep
      exact Block.invMore_completeOk (by simpa using effectOf_keeps_partialBlock i h)
    | some e =>
      rw [exec_err hchecks] at hstep
      cases hstep
      exact Block.invMore_completeErr (by simpa using h) e
  · rw [he] at hstep
    cases hstep
    cases e with
    | illegalOpcode => exact Block.invMore_completeErr h _
    | reservedBits op => exact Block.invMore_completeErr (by simpa using h) _

/-- An acknowledge sets no flag, and leaves the code or clears it (60_exceptions.md R207). -/
theorem Block.InvMore.writeStatus {b : Block} (h : b.InvMore) (v : Word) : (b.writeStatus v).InvMore := by
  refine ⟨fun hb => ?_, ?_, h.long_block⟩
  · obtain ⟨hdone, herr⟩ := h.busy_flags_clear hb
    simp [hdone, herr]
  · rw [Block.writeStatus_errcode]
    split
    · exact Nat.zero_le _
    · exact h.code_defined

/-- A register write resets, acknowledges, issues, or touches no field that log 16 speaks of. -/
theorem Block.InvMore.writeReg {b : Block} (h : b.InvMore) (r : Reg) (v : Word) : (b.writeReg r v).InvMore := by
  have ⟨hflags, hcode, hblock⟩ := h
  rcases b.writeReg_cases r v with ⟨-, -, he⟩ | ⟨-, -, he⟩ | ⟨-, he⟩ | ⟨-, -, he⟩ | ⟨-, -, he⟩ | ⟨-, -, he⟩ |
    ⟨-, w, -, he⟩ | he <;> rw [he]
  · exact Block.invMore_reset
  · exact ⟨hflags, hcode, hblock⟩
  · exact h.writeStatus v
  · exact ⟨hflags, hcode, hblock⟩
  · exact ⟨fun _ => ⟨rfl, rfl⟩, Nat.zero_le _, hblock⟩
  · exact ⟨hflags, hcode, hblock⟩
  · exact ⟨hflags, hcode, hblock⟩
  · exact h

theorem Block.InvMore.access {b : Block} (h : b.InvMore) (a : Access) : (b.access a).2.InvMore := by
  rcases b.access_cases a with ⟨off, n, -, -, he⟩ | ⟨off, n, v, -, -, he⟩ | ⟨off, n, -, -, he⟩ <;> rw [he]
  · exact h
  · exact h.writeReg _ v
  · exact h

theorem step_keeps_invMore {s t : State} (h : s.toBlock.InvMore) (hstep : step s = .next t) : t.toBlock.InvMore := by
  rcases step_cases hstep with ⟨-, ag, he⟩ | ⟨a, ag, rfl⟩ | ⟨ag, rfl⟩ | ⟨a, ag, rfl⟩ | ⟨-, ag, rfl⟩
  · exact engineStep_invMore (s := { s with agenda := ag }) h.long_block he
  · exact h.access a
  · exact Block.invMore_reset
  · exact Block.invMore_reset
  · exact h

end Sys2Proof.Machine

namespace Sys2Proof.Claims

open Sys2Proof Sys2Proof.Machine

/-! ### `validate` is the first failing check -/

theorem validate_of_illegal {v : Word} (h : decode v = .error .illegalOpcode) (b : Block) : validate v b = 1 :=
  if_pos ((decode_illegal_iff v).mp h)

/-- A word whose opcode is one of the 18 passes R204's check 1. -/
theorem wordOp_mem_opcodes {v : Word} {op : Opcode} (h : op.byte = opcodeField v) : wordOp v ∈ opcodes :=
  (wordOp_mem_opcodes_iff v).mpr ⟨op, h⟩

theorem validate_of_reserved {v : Word} {op : Opcode} (h : decode v = .error (.reservedBits op)) (b : Block) :
    validate v b = 2 := by
  obtain ⟨hop, hreserved⟩ := (decode_eq_reserved v op).mp h
  have hbyte : op.byte = opcodeField v := (Opcode.ofByte_eq_some _ _).mp hop
  rw [validate, if_neg (not_not_intro (wordOp_mem_opcodes hbyte)), reservedWord_eq_reservedSet hbyte, if_pos hreserved]

/-- Of a word that decodes, R204's checks 1 and 2 pass, and the others, each guarded by the opcodes that make it, are the
command's checks in their order. -/
theorem validate_of_decode {v : Word} {i : Instr} (h : decode v = .ok i) (b : Block) :
    validate v b = errorCode (firstError (checksOf i b)) := by
  obtain ⟨op, hop, hreserved, rfl⟩ := (decode_eq_ok v i).mp h
  have hbyte : op.byte = opcodeField v := (Opcode.ofByte_eq_some _ _).mp hop
  rw [← reservedWord_eq_reservedSet hbyte] at hreserved
  rw [validate, if_neg (not_not_intro (wordOp_mem_opcodes hbyte)), if_neg (ne_true_of_eq_false hreserved), wordOp_eq,
    wordLen_eq, wordDklen_eq, ← hbyte]
  cases op <;> simp [Opcode.byte, Opcode.instr, checksOf, lenUsers]

/-! ### What a failure zeroes -/

/-- R205's two exceptions, by the opcode of the raw word: 0x11 zeroes `inbuf` and 0x12 zeroes `out`. -/
def zeroedByOpcode (v : Word) (b : Block) : Block :=
  { b with
    inbuf := if wordOp v = 0x11 then Vector.replicate 64 0 else b.inbuf
    out := if wordOp v = 0x12 then Vector.replicate 80 0 else b.out }

/-- A legal opcode's zeroing is that of its word. -/
theorem zeroKeySource_eq_zeroedByOpcode {v : Word} {op : Opcode} (h : op.byte = opcodeField v) (b : Block) :
    b.zeroKeySource op = zeroedByOpcode v b := by
  rw [zeroedByOpcode, wordOp_eq, ← h]
  cases op <;> rfl

/-- An illegal opcode zeroes nothing. -/
theorem zeroedByOpcode_of_illegal {v : Word} (h : wordOp v ∉ opcodes) (b : Block) : zeroedByOpcode v b = b := by
  have hne {k : Nat} (hk : k ∈ opcodes) : wordOp v ≠ k := fun hv => h (hv ▸ hk)
  rw [zeroedByOpcode, if_neg (hne (by decide)), if_neg (hne (by decide))]

/-! ### The engine's step by the raw word -/

/-- The engine's step completes with the error that `validate` names, over R205's zeroing, or finishes with none. -/
theorem engineStep_validate_cases (s : State) :
    (∃ e : CmdError, validate s.pending s.toBlock = errorCode (some e) ∧
      engineStep s = .next (failed s e.code (zeroedByOpcode s.pending s.toBlock))) ∨
    (validate s.pending s.toBlock = 0 ∧ ∃ b, engineStep s = .next (finished s b)) := by
  cases hdecode : decode s.pending with
  | error e =>
    left
    cases e with
    | illegalOpcode =>
      refine ⟨.illegalOpcode, validate_of_illegal hdecode _, ?_⟩
      rw [engineStep_of_decode_error hdecode, zeroedByOpcode_of_illegal ((decode_illegal_iff _).mp hdecode)]
      rfl
    | reservedBits op =>
      refine ⟨.reservedBits, validate_of_reserved hdecode _, ?_⟩
      obtain ⟨hop, -⟩ := (decode_eq_reserved _ op).mp hdecode
      rw [engineStep_of_decode_error hdecode, ← zeroKeySource_eq_zeroedByOpcode ((Opcode.ofByte_eq_some _ _).mp hop)]
      rfl
  | ok i =>
    have hvalidate := validate_of_decode hdecode s.toBlock
    rw [engineStep_of_decode_ok hdecode]
    cases hchecks : firstError (checksOf i s.toBlock) with
    | none => exact .inr ⟨by rw [hvalidate, hchecks, errorCode_none], _, exec_finished hchecks⟩
    | some e =>
      obtain ⟨hop, -⟩ := (decode_eq_ok_iff_fields _ i).mp hdecode
      rw [exec_failed hchecks, zeroKeySource_eq_zeroedByOpcode hop.symm]
      exact .inl ⟨e, by rw [hvalidate, hchecks], rfl⟩

/-! ### The statements -/

/-- Settles O8: the engine's step leaves the error that `validate` names, and no error has code 0. -/
theorem completionReportsFirstFailingCheck : Obligations.CompletionReportsFirstFailingCheck := by
  intro s rest hbusy hagenda
  rw [step_of_engine hagenda hbusy]
  rcases engineStep_validate_cases { s with agenda := rest } with ⟨e, hvalidate, hstep⟩ | ⟨hvalidate, b, hstep⟩
  · exact ⟨_, hstep, hvalidate.symm, iff_of_true rfl (hvalidate.trans_ne (errorCode_some_ne_zero e)), rfl, rfl, rfl⟩
  · exact ⟨_, hstep, hvalidate.symm, iff_of_false Bool.false_ne_true (not_not_intro hvalidate), rfl, rfl, rfl⟩

/-- Settles O9: a word that `validate` does not pass fails over R205's zeroing, with the error that it names. -/
theorem failedCommandChangesOnlyStatus : Obligations.FailedCommandChangesOnlyStatus := by
  intro s hfails
  rcases engineStep_validate_cases s with ⟨e, hvalidate, hstep⟩ | ⟨hvalidate, -⟩
  · have hcode : BitVec.ofNat 8 (validate s.pending s.toBlock) = e.code := by
      rw [hvalidate, errorCode, BitVec.ofNat_toNat, BitVec.setWidth_eq]
    rw [hcode]
    exact hstep
  · exact absurd hvalidate hfails

/-- Settles O12: a completion clears `busy` and leaves a defined code, an issue clears the flags, and the accumulator
changes only by `kappend` or to an empty one. -/
theorem stepKeepsCompletionInvariants : Obligations.StepKeepsCompletionInvariants :=
  fun _ _ _ => step_keeps_invMore

/-- Settles O7: each of the three is the engine's turn, and the engine runs what the pending word decodes to. -/
theorem stepRunsDecodedCommand : Obligations.StepRunsDecodedCommand := by
  refine ⟨fun s i hbusy hagenda hdecode => ?_, fun s i rest hbusy hagenda hdecode => ?_, fun s i w hdecode => ?_⟩
  · rw [step_of_idle_agenda hagenda hbusy, engineStep_of_decode_ok hdecode]
  · rw [step_of_engine hagenda hbusy]
    exact engineStep_of_decode_ok hdecode
  · have hpending : (s.withFetchWord 32 w.toNat).pending = w :=
      BitVec.eq_of_toNat_eq (by simpa using w.isLt)
    rw [step_of_idle_agenda rfl rfl, engineStep_of_decode_ok (hpending ▸ hdecode)]

/-- Settles O16: CMD's own read and write, by `busy`. -/
theorem cmdRegisterIssues : Obligations.CmdRegisterIssues := by
  refine fun s => ⟨reads_readReg (by decide) s, fun v => ?_⟩
  have hwrite : Writes s 0x10 v (if s.busy then s.dropWrite else s.issue v) := writes_writeReg (by decide) s v
  exact ⟨fun hb => hwrite.congr (if_neg (ne_true_of_eq_false hb)), fun hb => hwrite.congr (if_pos hb)⟩

/-- Settles O23: such an access is not legal, and that is all the block looks at. -/
theorem illegalAccessGetsBusError : Obligations.IllegalAccessGetsBusError := by
  intro s off n rest h
  have hillegal := accessLegal_eq_false h
  refine ⟨?_, fun v => ?_⟩ <;>
  · rw [step_of_access rfl]
    simp only [State.hostAccess, Block.access, hillegal, Bool.false_eq_true, if_false]

/-- Settles O27: `agentStep`'s own case. -/
theorem secondMasterIsRefused : Obligations.SecondMasterIsRefused := fun _ _ _ => rfl

/-- Settles O28: the two ways in which an idle block's step does nothing. -/
theorem idleBlockHoldsState : Obligations.IdleBlockHoldsState := fun _ hb =>
  ⟨fun ha => step_of_idle_unscheduled ha hb, fun _ ha => step_of_idle_engine ha hb⟩

end Sys2Proof.Claims
end

section
/-! Bounded termination (70_reset_and_hazards.md R234): while a command is pending and no reset is scheduled, each step
completes it or shortens the schedule, so the schedule's length is a variant of the run. -/

namespace Sys2Proof.Machine

/-- A command is pending, and nothing scheduled takes it away. -/
structure State.CommandPending (s : State) : Prop where
  busy : s.busy = true
  scheduled : ∀ e ∈ s.agenda, e.leavesCommand = true

/-- The command's completion has been signalled. -/
structure State.CommandCompleted (s : State) : Prop where
  busy : s.busy = false
  done : s.done = true

/-! ### The steps of a busy block -/

theorem Event.leavesCommand_access {a : Access} : (Event.access a).leavesCommand = true ↔ isSoftReset a = false := by
  rw [Event.leavesCommand, Bool.not_eq_true']

/-- The `wait` loop has made its polls, and the engine's step falls (30_encoding.md R90; log 5). -/
theorem step_of_wait_zero {s : State} {rest : List Event} (ha : s.agenda = .wait 0 :: rest) (hb : s.busy = true) :
    step s = engineStep s := by
  simp [step, agentStep, ha, hb]

/-- A poll of the `wait` loop that finds BUSY = 1 (30_encoding.md R90; log 5). -/
theorem step_of_wait_succ {s : State} {k : Nat} {rest : List Event} (ha : s.agenda = .wait (k + 1) :: rest)
    (hb : s.busy = true) : step s = .next ({ s with agenda := .wait k :: rest }.hostAccess statusPoll) := by
  simp [step, agentStep, ha, hb]

/-- The engine's step completes every pending word, with an error or without. -/
theorem engineStep_completes (s : State) : ∃ t, engineStep s = .next t ∧ t.CommandCompleted := by
  rcases Claims.engineStep_validate_cases s with ⟨e, -, hstep⟩ | ⟨-, b, hstep⟩ <;> exact ⟨_, hstep, rfl, rfl⟩

/-- No access but a soft reset ends a pending command (20_memory.md R65). -/
theorem Block.access_keeps_busy {b : Block} {a : Access} (hb : b.busy = true) (ha : isSoftReset a = false) :
    (b.access a).2.busy = true := by
  rcases Block.access_busy_cases hb ha with he | ⟨e, he⟩ | ⟨v, he⟩ | he <;> rw [he] <;> exact hb

theorem State.CommandPending.hostAccess {s : State} {a : Access} (h : s.CommandPending) (ha : isSoftReset a = false) :
    (s.hostAccess a).CommandPending :=
  ⟨Block.access_keeps_busy h.busy ha, h.scheduled⟩

/-! ### The schedule's length is a variant -/

theorem scheduleLength_pos (es : List Event) : 0 < scheduleLength es := by
  cases es using scheduleLength.fun_cases <;> rw [scheduleLength] <;> omega

/-- A step from a pending command completes it, or leaves it pending with a shorter schedule. -/
theorem State.CommandPending.completes_or_shortens {s : State} (h : s.CommandPending) :
    (∃ t, step s = .next t ∧ t.CommandCompleted) ∨
    (∃ t, step s = .next t ∧ t.CommandPending ∧ scheduleLength t.agenda < scheduleLength s.agenda) := by
  obtain ⟨hbusy, hscheduled⟩ := h
  cases hagenda : s.agenda with
  | nil => exact .inl (step_of_idle_agenda hagenda hbusy ▸ engineStep_completes _)
  | cons e rest =>
    rw [hagenda, List.forall_mem_cons] at hscheduled
    obtain ⟨hfirst, hrest⟩ := hscheduled
    cases e with
    | engine => exact .inl (step_of_engine hagenda hbusy ▸ engineStep_completes _)
    | access a =>
      have hpending : State.CommandPending { s with agenda := rest } := ⟨hbusy, hrest⟩
      refine .inr ⟨_, step_of_access hagenda, hpending.hostAccess (Event.leavesCommand_access.mp hfirst), ?_⟩
      simp [scheduleLength]
    | wait polls =>
      cases polls with
      | zero => exact .inl (step_of_wait_zero hagenda hbusy ▸ engineStep_completes _)
      | succ k =>
        have hpending : State.CommandPending { s with agenda := .wait k :: rest } :=
          ⟨hbusy, List.forall_mem_cons.mpr ⟨rfl, hrest⟩⟩
        refine .inr ⟨_, step_of_wait_succ hagenda hbusy, hpending.hostAccess rfl, ?_⟩
        simp [scheduleLength]
    | reset | resetOverlap | otherMaster => cases hfirst

/-- One step and then a run. -/
theorem run_succ_of_step {s t : State} (h : step s = .next t) (k : Nat) :
    Host.Core.run core (k + 1) s = Host.Core.run core k t := by
  have hcore : core.step s = .next t := h
  simp only [Host.Core.run, hcore]

/-- The induction over the variant: a run no longer than a bound on the schedule's length completes the command. -/
theorem State.CommandPending.run_completes {n : Nat} {s : State} (h : s.CommandPending)
    (hn : scheduleLength s.agenda ≤ n) :
    ∃ (k : Nat) (t : State), k ≤ n ∧ Host.Core.run core k s = .next t ∧ t.CommandCompleted := by
  induction n generalizing s with
  | zero => exact absurd (scheduleLength_pos s.agenda) (Nat.not_lt.mpr hn)
  | succ n ih =>
    rcases h.completes_or_shortens with ⟨t, hstep, hcompleted⟩ | ⟨u, hstep, hpending, hshorter⟩
    · exact ⟨1, t, by omega, run_succ_of_step hstep 0, hcompleted⟩
    · obtain ⟨k, t, hk, hrun, hcompleted⟩ := ih hpending (by omega)
      exact ⟨k + 1, t, by omega, (run_succ_of_step hstep k).trans hrun, hcompleted⟩

end Sys2Proof.Machine

namespace Sys2Proof.Claims

open Sys2Proof Sys2Proof.Machine

/-- Settles O30: the schedule's length bounds the run that its own decrease gives. -/
theorem pendingCommandCompletes : Obligations.PendingCommandCompletes := by
  intro s hbusy hscheduled
  have hpending : s.CommandPending := ⟨hbusy, hscheduled⟩
  obtain ⟨k, t, hk, hrun, hcompleted⟩ := hpending.run_completes le_rfl
  exact ⟨k, t, hk, hrun, hcompleted.busy, hcompleted.done⟩

end Sys2Proof.Claims
end
